-- ==== Sys2Proof/Word.lean ====
section
/-! DEFINITION. The 32-bit word and the 16-word ChaCha state (spec/00_scope.md R7, R8). -/

namespace Sys2Proof

/-- An unsigned 32-bit word; bit 0 is the least significant bit (R8). -/
abbrev Word := BitVec 32

/-- A state is a sequence of 16 words `S[0] .. S[15]` (R8); the 512-bit packing is R71, in Decode.lean. -/
abbrev ChaChaState := Vector Word 16

/-- The all-zero state, `0^512` (R9). -/
def zeroState : ChaChaState := Vector.replicate 16 0

end Sys2Proof
end

