-- ==== Sys2Proof/Syntax.lean ====
section
/-! DEFINITION. The instructions: one constructor per row of spec/opcode_table.json (spec/00_scope.md R2), and the inputs of
a cycle. -/

namespace Sys2Proof

/-- The inputs of one cycle (R26). -/
structure CycleInput where
  rst : Bool
  enabled : Bool
  stateIn : ChaChaState
  deriving DecidableEq, Repr

/-- The three cycle actions (R146). -/
inductive Action where
  | reset
  | idle
  | step
  deriving DecidableEq, Repr

/-- The round counts the hardware has (R3): "one of {8, 12, 20}". -/
inductive RoundCount where
  | r8
  | r12
  | r20
  deriving DecidableEq, Repr

/-- The four word indices of one quarter round (R103). -/
structure IndexGroup where
  a : Fin 16
  b : Fin 16
  c : Fin 16
  d : Fin 16
  deriving DecidableEq, Repr

/-- The operations of the opcode table. The first three are the cycle actions; each carries what the line of R80 leaves
open: `state_in`, and for RESET the `enabled` bit that it ignores. The other ten are the combinational operators of
spec/40_primitives.md with their operands. -/
inductive Instr where
  /-- RESET (R147): CTL = `1e`. -/
  | reset (enabled : Bool) (stateIn : ChaChaState)
  /-- IDLE (R148): CTL = `00`. -/
  | idle (stateIn : ChaChaState)
  /-- STEP (R149): CTL = `01`. -/
  | step (stateIn : ChaChaState)
  /-- ADD32 (R100). -/
  | add32 (x y : Word)
  /-- XOR32 (R101). -/
  | xor32 (x y : Word)
  /-- ROTL32 (R102); the contract asks `0 < k < 32`. -/
  | rotl32 (x : Word) (k : Nat)
  /-- QUARTERROUND (R103); the contract asks four distinct indices in `[0,16)`. -/
  | quarterRound (S : ChaChaState) (a b c d : Nat)
  /-- COLUMNROUND (R105). -/
  | columnRound (S : ChaChaState)
  /-- DIAGONALROUND (R106). -/
  | diagonalRound (S : ChaChaState)
  /-- DOUBLEROUND (R107). -/
  | doubleRound (S : ChaChaState)
  /-- ROUNDSFINISH (R108). -/
  | roundsFinish (mixed original : ChaChaState)
  /-- STAGEPIPE (R109); the number of double rounds comes from the engine's configuration. -/
  | stagePipe (X : ChaChaState)
  /-- CHACHAPERMUTE (R111). -/
  | chachaPermute (S : ChaChaState) (n : RoundCount)
  deriving DecidableEq, Repr

end Sys2Proof
end

