-- ==== Sys2Proof/Machine/Operands.lean ====
section
/-! DEFINITION. Operand forms: the wired index groups (spec/30_encoding.md R77), and when an index group or a rotation amount
is inside the contract of its operator (spec/40_primitives.md R102, R103). -/

namespace Sys2Proof.Machine

/-- `k` is inside rotl32's contract, `0 < k < 32` (R102; 93_implementation_defined U4). -/
def rotationInContract (k : Nat) : Bool := decide (0 < k ∧ k < 32)

/-- `a, b, c, d` are inside QuarterRound's contract: "four distinct word indices `a,b,c,d` in [0,16)" (R103; U3). -/
def indicesInContract (a b c d : Nat) : Bool :=
  decide ((a < 16 ∧ b < 16 ∧ c < 16 ∧ d < 16) ∧ a ≠ b ∧ a ≠ c ∧ a ≠ d ∧ b ≠ c ∧ b ≠ d ∧ c ≠ d)

/-- The group that four numbers in `[0,16)` name. -/
def indexGroup (a b c d : Nat) : IndexGroup :=
  ⟨Fin.ofNat 16 a, Fin.ofNat 16 b, Fin.ofNat 16 c, Fin.ofNat 16 d⟩

/-- Positions 0 to 3 of R77. -/
def columnGroups : List IndexGroup :=
  [⟨0, 4, 8, 12⟩, ⟨1, 5, 9, 13⟩, ⟨2, 6, 10, 14⟩, ⟨3, 7, 11, 15⟩]

/-- Positions 4 to 7 of R77. -/
def diagonalGroups : List IndexGroup :=
  [⟨0, 5, 10, 15⟩, ⟨1, 6, 11, 12⟩, ⟨2, 7, 8, 13⟩, ⟨3, 4, 9, 14⟩]

/-- All eight positions of R77, in order. -/
def doubleRoundGroups : List IndexGroup := columnGroups ++ diagonalGroups

/-- The number a round count stands for. -/
def roundCountValue : RoundCount → Nat
  | .r8 => 8
  | .r12 => 12
  | .r20 => 20

end Sys2Proof.Machine
end

