-- ==== Sys2Proof/WellFormed.lean ====
section
/-! DEFINITION. When an instruction is inside the contract of its operation. -/

namespace Sys2Proof

/-- Well-formed instructions. Every cycle action and every state is legal (30_encoding R74); only a rotation amount (R102)
and a group of indices (R103) can be outside the contract. -/
def Instr.wellFormed : Instr → Bool
  | .reset _ _ => true
  | .idle _ => true
  | .step _ => true
  | .add32 _ _ => true
  | .xor32 _ _ => true
  | .rotl32 _ k => Machine.rotationInContract k
  | .quarterRound _ a b c d => Machine.indicesInContract a b c d
  | .columnRound _ => true
  | .diagonalRound _ => true
  | .doubleRound _ => true
  | .roundsFinish _ _ => true
  | .stagePipe _ => true
  | .chachaPermute _ _ => true

/-- Whether the instruction is a cycle action, which is what CTL can select (30_encoding R73). The operators "are not selected
by any encoding". -/
def Instr.isCycleAction : Instr → Bool
  | .reset _ _ => true
  | .idle _ => true
  | .step _ => true
  | .add32 _ _ => false
  | .xor32 _ _ => false
  | .rotl32 _ _ => false
  | .quarterRound _ _ _ _ _ => false
  | .columnRound _ => false
  | .diagonalRound _ => false
  | .doubleRound _ => false
  | .roundsFinish _ _ => false
  | .stagePipe _ => false
  | .chachaPermute _ _ => false

end Sys2Proof
end

