-- ==== Sys2Proof/Decode.lean ====
section
/-! DEFINITION. The bit formats (spec/30_encoding.md R70 to R74): STATE512, CTL and the line of a cycle program; the decoder
of a line into a cycle action, and the encoder. -/

namespace Sys2Proof

/-- STATE512 encode (R71): the sum of `S[i] * 2^((15-i)*32)`. -/
def packState (S : ChaChaState) : BitVec 512 :=
  BitVec.ofNat 512 (((List.finRange 16).map fun i => (S.get i).toNat * 2 ^ ((15 - i.val) * 32)).sum)

/-- STATE512 decode (R71): `S[i] := v[(15-i)*32+31 : (15-i)*32]`. -/
def unpackState (v : BitVec 512) : ChaChaState :=
  Vector.ofFn fun i => v.extractLsb' ((15 - i.val) * 32) 32

/-- A row of R73's match and mask pairs over CTL. -/
structure CtlRow where
  action : Action
  matchBits : BitVec 2
  mask : BitVec 2
  deriving DecidableEq, Repr

/-- "IDLE match `0b00` mask `0b11`; STEP match `0b01` mask `0b11`; RESET match `0b10` mask `0b10`" (R73). -/
def ctlTable : List CtlRow :=
  [⟨.reset, 0b10, 0b10⟩, ⟨.idle, 0b00, 0b11⟩, ⟨.step, 0b01, 0b11⟩]

/-- Whether a CTL value matches a row. -/
def CtlRow.matchesCtl (row : CtlRow) (ctl : BitVec 2) : Bool := ctl &&& row.mask == row.matchBits

/-- The action of a CTL value, the truth table of R73: bit 1 is `rst`, bit 0 is `enabled`. -/
def decodeCtl (ctl : BitVec 2) : Action :=
  match ctl.getLsbD 1, ctl.getLsbD 0 with
  | false, false => .idle
  | false, true => .step
  | true, _ => .reset

/-- `CTL = {rst, enabled}`, with `rst` as bit 1 and `enabled` as bit 0 (R73). -/
def CycleInput.ctl (p : CycleInput) : BitVec 2 := BitVec.ofBool p.rst ++ BitVec.ofBool p.enabled

/-- The cycle action that the inputs of a cycle select, with the inputs it carries (R73, R146). -/
def decodeCycle (p : CycleInput) : Instr :=
  match decodeCtl p.ctl with
  | .reset => .reset p.enabled p.stateIn
  | .idle => .idle p.stateIn
  | .step => .step p.stateIn

/-- A line as one number: "its CTL bits `rst en` followed by the 512-bit `state_in`" (R80; spec/95_test_vectors.md section 4), so
CTL is bits 513..512 and `state_in`, packed by R71, bits 511..0. -/
def CycleInput.toLine (p : CycleInput) : BitVec 514 := p.ctl ++ packState p.stateIn

/-- The inputs that a line stands for. -/
def CycleInput.ofLine (line : BitVec 514) : CycleInput where
  rst := line.getLsbD 513
  enabled := line.getLsbD 512
  stateIn := unpackState (line.extractLsb' 0 512)

/-- The cycle action of a line. Every line is one (R74). -/
def decodeLine (line : BitVec 514) : Instr := decodeCycle (CycleInput.ofLine line)

/-- The line of a number in the bit numbering of spec/opcode_table.json, where CTL is bits 1..0; the bits of `state_in`, to which the
table gives no numbers, count on from there, 513..2 (DESIGN CHOICE, log 14). -/
def lineOfTableBits (bits : BitVec 514) : BitVec 514 := bits.extractLsb' 0 2 ++ bits.extractLsb' 2 512

/-- A line in the bit numbering of spec/opcode_table.json (log 14). -/
def tableBitsOfLine (line : BitVec 514) : BitVec 514 := line.extractLsb' 0 512 ++ line.extractLsb' 512 2

/-- Why a number is no line. -/
inductive DecodeError where
  /-- A bit above the stated number of bits is set. -/
  | bitsAboveWidth
  /-- A bit above bit 513 is set: every format has a fixed width (R79). -/
  | bitsAboveLine
  deriving DecidableEq, Repr

/-- Whether `w` has no bit above the lowest `nbits`. -/
def fitsIn (nbits w : Nat) : Bool := (BitVec.ofNat nbits w).toNat == w

/-- Decode a number of `nbits` bits, numbered as spec/opcode_table.json numbers them; absent bits are 0. Every line is an action
(R74), so the only rejections are of numbers that are no line. -/
def decode (nbits w : Nat) : Except DecodeError Instr :=
  if !fitsIn nbits w then .error .bitsAboveWidth
  else if !fitsIn 514 w then .error .bitsAboveLine
  else .ok (decodeLine (lineOfTableBits (BitVec.ofNat 514 w)))

/-- The instruction the decoder reads from a word of the opcode table. -/
def decodeTableWord (nbits w : Nat) : Option Instr := (decode nbits w).toOption

/-- The inputs that select a cycle action, from R73's table; an operator has no encoding. -/
def encodeCycle : Instr → Option CycleInput
  | .reset e x => some ⟨true, e, x⟩
  | .idle x => some ⟨false, false, x⟩
  | .step x => some ⟨false, true, x⟩
  | .add32 _ _ => none
  | .xor32 _ _ => none
  | .rotl32 _ _ => none
  | .quarterRound _ _ _ _ _ => none
  | .columnRound _ => none
  | .diagonalRound _ => none
  | .doubleRound _ => none
  | .roundsFinish _ _ => none
  | .stagePipe _ => none
  | .chachaPermute _ _ => none

/-- The line of an instruction (R80); none for an operator, whose match and mask are null in the table. -/
def encode (i : Instr) : Option (BitVec 514) := (encodeCycle i).map CycleInput.toLine

end Sys2Proof
end

