-- ==== Sys2Proof/Config.lean ====
section
/-! DEFINITION. What is fixed when an engine is constructed (spec/00_scope.md R3, R7; spec/30_encoding.md R75, R76;
spec/60_exceptions.md R201), and the free values of the model. -/

namespace Sys2Proof

/-- The OPEN parameter `RESET_STYLE` (R7, R230). Port name and polarity do not show in a model of sampled values. -/
inductive ResetStyle where
  | synchronous
  | asynchronous
  deriving DecidableEq, Repr

/-- The OPEN parameter `CLOCK_EDGE` (R7), unobservable. -/
inductive ClockEdge where
  | rising
  | falling
  deriving DecidableEq, Repr

/-- When a pair `(n_rounds, rounds_per_cycle)` is legal, clause by clause as R76 lists them. -/
abbrev LegalPair (n r : Nat) : Prop :=
  (n = 8 ∨ n = 12 ∨ n = 20) ∧ (n ≥ r ∧ r > 0) ∧ n % r = 0 ∧ r % 2 = 0

/-- The construction-time configuration. No engine exists for an illegal pair (R21, R201), so none can be written:
`legal` is R76. `ctrWidth` is the OPEN parameter `CTR_WIDTH`, wide enough for every counter value below
`T = nRounds / roundsPerCycle` (R22; decision D6). -/
structure Config where
  nRounds : Nat
  roundsPerCycle : Nat
  resetStyle : ResetStyle
  clockEdge : ClockEdge
  ctrWidth : Nat
  legal : LegalPair nRounds roundsPerCycle
  wide : nRounds / roundsPerCycle ≤ 2 ^ ctrWidth
  deriving DecidableEq, Repr

/-- The four kinds of configuration error (R201; the names are the spec's decision D20). -/
inductive ConfigError where
  | invalidRoundCount
  | roundsPerCycleOutOfRange
  | notADivisor
  | oddRoundsPerCycle
  deriving DecidableEq, Repr

/-- The configuration that `State.reset` carries: ChaCha20 at one double round per cycle, the pair of the source's own
staged vector (V-SRC-4). DESIGN CHOICE, log 2: the spec fixes no configuration. -/
def Config.reference : Config where
  nRounds := 20
  roundsPerCycle := 2
  resetStyle := .synchronous
  clockEdge := .rising
  ctrWidth := 4
  legal := by decide
  wide := by decide

/-- FREE VALUE, log 3: the line (30_encoding R80) that the driver presents in cycle `k` when nothing is lined up for it.
"Every input is sampled in every cycle and is a free value chosen by the driver" (R26). -/
opaque Config.driverLine : Nat → BitVec 514

/-- FREE VALUE, log 15: which of the violated kinds the constructor reports for an illegal pair (R202). -/
opaque Config.errorChoice : Nat → Nat → Nat

end Sys2Proof
end

