-- ==== Sys2Proof/Machine/Params.lean ====
section
/-! DEFINITION. The two constants derived at construction (spec/10_state.md R21). -/

namespace Sys2Proof

/-- `T = total_stages = N_ROUNDS / ROUNDS_PER_CYCLE` (R21). -/
def Config.totalStages (c : Config) : Nat := c.nRounds / c.roundsPerCycle

/-- `K = ROUNDS_PER_CYCLE / 2`, the double-round units chained in one stage (R21). -/
def Config.unitsPerStage (c : Config) : Nat := c.roundsPerCycle / 2

/-- "T and K are therefore always integers with `T >= 1`" (R21). -/
theorem Config.totalStages_pos (c : Config) : 0 < c.totalStages := by
  obtain ⟨_, ⟨hle, hpos⟩, _, _⟩ := c.legal
  exact Nat.div_pos hle hpos

end Sys2Proof
end

