-- ==== Sys2Proof/Machine/Primitives.lean ====
section
/-! DEFINITION. The combinational functions of the datapath (spec/40_primitives.md): pure, total, without state (R112). The
cycle actions and the operator instructions both call these. -/

namespace Sys2Proof.Machine

/-- `add32(x, y) := (x + y) mod 2^32` (R100). -/
def add32 (x y : Word) : Word := x + y

/-- `(x xor y)[j] := x[j] != y[j]` (R101). -/
def xor32 (x y : Word) : Word := x ^^^ y

/-- `rotl32(x, k) := ((x << k) | (x >> (32 - k))) mod 2^32`, for `0 < k < 32` (R102). -/
def rotl32 (x : Word) (k : Nat) : Word := (x <<< k) ||| (x >>> (32 - k))

/-- The four words of a quarter round. -/
structure Quad where
  a : Word
  b : Word
  c : Word
  d : Word
  deriving DecidableEq, Repr

/-- R103's pseudocode on the four words, read once at entry (R104); the rotation amounts are R78. -/
def quarterWords (q : Quad) : Quad :=
  let a1 := add32 q.a q.b
  let d1 := rotl32 (xor32 q.d a1) 16
  let c1 := add32 q.c d1
  let b1 := rotl32 (xor32 q.b c1) 12
  let a2 := add32 a1 b1
  let d2 := rotl32 (xor32 d1 a2) 8
  let c2 := add32 c1 d2
  let b2 := rotl32 (xor32 b1 c2) 7
  ⟨a2, b2, c2, d2⟩

/-- The words of a state at a group's indices. -/
def readGroup (S : ChaChaState) (g : IndexGroup) : Quad := ⟨S.get g.a, S.get g.b, S.get g.c, S.get g.d⟩

/-- `S with [i] = v` (R9). -/
def setWord (S : ChaChaState) (i : Fin 16) (v : Word) : ChaChaState := S.set i.val v i.isLt

/-- `S with [a] = q.a, [b] = q.b, [c] = q.c, [d] = q.d` for a group `(a, b, c, d)`. -/
def writeGroup (S : ChaChaState) (g : IndexGroup) (q : Quad) : ChaChaState :=
  setWord (setWord (setWord (setWord S g.a q.a) g.b q.b) g.c q.c) g.d q.d

/-- `QuarterRound(S, a, b, c, d)` (R103, R104). -/
def quarterRound (S : ChaChaState) (g : IndexGroup) : ChaChaState :=
  writeGroup S g (quarterWords (readGroup S g))

/-- `ColumnRound(S)` (R105): the four column groups in order. -/
def columnRound (S : ChaChaState) : ChaChaState := columnGroups.foldl quarterRound S

/-- `DiagonalRound(S)` (R106): the four diagonal groups in order. -/
def diagonalRound (S : ChaChaState) : ChaChaState := diagonalGroups.foldl quarterRound S

/-- `DoubleRound(S)` (R107): "eight QuarterRound invocations in strict sequence". -/
def doubleRound (S : ChaChaState) : ChaChaState := doubleRoundGroups.foldl quarterRound S

/-- `F^k` for `F = DoubleRound` (R9). -/
def doubleRounds (k : Nat) (S : ChaChaState) : ChaChaState := doubleRound^[k] S

/-- `RoundsFinish(m, o)[i] := m[i] +32 o[i]` for each i independently (R108). -/
def roundsFinish (mixed original : ChaChaState) : ChaChaState := Vector.zipWith add32 mixed original

/-- `StagePipe(X) := DoubleRound^K(X)` (R109). -/
def stagePipe (c : Config) (X : ChaChaState) : ChaChaState := doubleRounds c.unitsPerStage X

/-- `ChaChaPermute(S, n) := RoundsFinish(DoubleRound^(n/2)(S), S)` (R111). -/
def chachaPermute (S : ChaChaState) (n : Nat) : ChaChaState := roundsFinish (doubleRounds (n / 2) S) S

end Sys2Proof.Machine
end

