-- ==== Sys2Proof/Machine/State.lean ====
section
/-! DEFINITION. The state of the machine, the reasons a step can stop, and the state after reset (spec/10_state.md). -/

namespace Sys2Proof.Machine

/-- The two outputs of a cycle (10_state R27). -/
structure Outputs where
  done : Bool
  stateOut : ChaChaState
  deriving DecidableEq, Repr

/-- The value on the output of a combinational operator (spec/40_primitives.md): a word or a state. -/
inductive OpValue where
  | word (w : Word)
  | state (S : ChaChaState)
  deriving DecidableEq, Repr

/-- The registers of an engine with `stages` stages (R22, R23, R24): "exactly the triple `(ctr, inter, prev)`, with `ctr` in
`[0, T)`" (R25). A counter outside that range cannot be written: "the type excludes it" (93_implementation_defined U13). -/
structure Regs (stages : Nat) where
  ctr : Nat
  inter : ChaChaState
  prev : ChaChaState
  inRange : ctr < stages
  deriving DecidableEq, Repr

/-- The machine. `regs` is the whole of the spec's state (R25). `cfg` is the configuration the engine was constructed with,
written by no step (R20, log 1). The last four are the model's own: what the driver has lined up and how many steps it has
taken (log 3), and what it saw of the last cycle (log 9) and of the last operator (log 11). -/
structure State where
  cfg : Config
  regs : Regs cfg.totalStages
  pending : List CycleInput
  cycle : Nat
  lastOut : Option Outputs
  opResult : Option OpValue
  deriving DecidableEq, Repr

/-- Reasons to stop with a fault: none. "No cycle action and no combinational function raises an exception, traps, sets an
error flag or stops the engine" (60_exceptions R200). -/
inductive Fault where
  deriving DecidableEq, Repr

/-- Reasons to refuse an instruction. No cycle action is ever refused; only operators evaluated as instructions are. -/
inductive Refusal where
  /-- Raised by an arm of `exec` whose instruction has no meaning yet; no arm does. Safe. -/
  | notModelled (mnemonic : String)
  /-- Raised by `execRotl32` for an amount outside `0 < k < 32`: "a model refuses them" (R102, U4). Safe. -/
  | rotationOutsideContract
  /-- Raised by `execQuarterRound` for indices that repeat or are not in `[0,16)`: "A model refuses them" (R103, U3). Safe. -/
  | indicesOutsideContract
  deriving DecidableEq, Repr

/-- The stage counter (R22). -/
def State.ctr (s : State) : Nat := s.regs.ctr

/-- The intermediate state register (R23). -/
def State.inter (s : State) : ChaChaState := s.regs.inter

/-- The previous-state register (R24). -/
def State.prev (s : State) : ChaChaState := s.regs.prev

/-- The values of the three registers, for comparing engines whose configurations differ. -/
def Regs.triple {stages : Nat} (r : Regs stages) : Nat × ChaChaState × ChaChaState := (r.ctr, r.inter, r.prev)

/-- The values of the three registers of a state. -/
def State.triple (s : State) : Nat × ChaChaState × ChaChaState := s.regs.triple

/-- The reset values of the registers (R36). -/
def Regs.reset (cfg : Config) : Regs cfg.totalStages where
  ctr := 0
  inter := zeroState
  prev := zeroState
  inRange := cfg.totalStages_pos

/-- The state of an engine constructed with `cfg`, right after power-on (70_reset_and_hazards R232), nothing lined up by the
driver and nothing observed. -/
def State.powerOn (cfg : Config) : State where
  cfg := cfg
  regs := Regs.reset cfg
  pending := []
  cycle := 0
  lastOut := none
  opResult := none

/-- The machine right after reset, for the reference configuration (DESIGN CHOICE, log 2). -/
def State.reset : State := State.powerOn Config.reference

end Sys2Proof.Machine
end

