-- ==== Sys2Proof/Machine/Ops.lean ====
section
/-! DEFINITION. The named operations over the registers and the inputs (spec/41_scheduler.md R141, R142, R147, R149). There is
no operation for taking an exception or returning from one: the engine has neither (60_exceptions R200, R205). -/

namespace Sys2Proof.Machine

/-- `pin := (ctr == 0) ? state_in : inter` (R141). -/
def pipelineIn (s : State) (stateIn : ChaChaState) : ChaChaState := if s.ctr = 0 then stateIn else s.inter

/-- `pout := StagePipe(pin)` (R142), in every cycle. -/
def pipelineOut (s : State) (stateIn : ChaChaState) : ChaChaState := stagePipe s.cfg (pipelineIn s stateIn)

/-- Whether the counter is at the last stage, `ctr == T - 1`. -/
def atLastStage (s : State) : Bool := s.ctr == s.cfg.totalStages - 1

/-- The register writes of RESET (R147). -/
def clearRegisters (s : State) : State := { s with regs := Regs.reset s.cfg }

/-- The counter after a STEP (R149): it holds at the last stage. -/
def nextCounter (s : State) : Nat := if atLastStage s then s.ctr else s.ctr + 1

/-- "`ctr + 1` never goes past `T - 1`" (R149). -/
theorem nextCounter_lt (s : State) : nextCounter s < s.cfg.totalStages := by
  have h : s.ctr < s.cfg.totalStages := s.regs.inRange
  simp only [nextCounter, atLastStage, beq_iff_eq]
  split <;> omega

/-- The register writes of STEP (R149); every right-hand side reads the values from before the edge. -/
def stepRegisters (s : State) (stateIn : ChaChaState) : State :=
  { s with
    regs :=
      { ctr := nextCounter s
        inter := if atLastStage s then s.inter else pipelineOut s stateIn
        prev := if s.ctr = 0 then stateIn else s.prev
        inRange := nextCounter_lt s } }

/-- Leave the result of an operator on its output (log 11). -/
def withOpResult (s : State) (v : OpValue) : State := { s with opResult := some v }

/-- The inputs of the current cycle: the first of what the driver has lined up, else a free value (R26, log 3). -/
def currentInput (s : State) : CycleInput :=
  match s.pending with
  | p :: _ => p
  | [] => CycleInput.ofLine (Config.driverLine s.cycle)

/-- Move the driver to the next cycle. -/
def consumeInput (s : State) : State := { s with pending := s.pending.tail, cycle := s.cycle + 1 }

/-- Present `p` as the inputs of the current cycle. -/
def presentInput (s : State) (p : CycleInput) : State := { s with pending := p :: s.pending.tail }

end Sys2Proof.Machine
end

