-- ==== Sys2Proof/Machine/Rounds.lean ====
section
/-! DEFINITION. The meanings of the state operators (spec/40_primitives.md R103 to R111): the result is left on the operator's
output and no register is touched (R112). -/

namespace Sys2Proof.Machine

/-- QUARTERROUND (R103): inside the contract the quarter round, outside it a refusal (U3). -/
def execQuarterRound (S : ChaChaState) (a b c d : Nat) (s : State) : Host.Outcome State Fault Refusal :=
  if indicesInContract a b c d then .next (withOpResult s (.state (quarterRound S (indexGroup a b c d))))
  else .refused .indicesOutsideContract

/-- COLUMNROUND (R105). -/
def execColumnRound (S : ChaChaState) (s : State) : Host.Outcome State Fault Refusal :=
  .next (withOpResult s (.state (columnRound S)))

/-- DIAGONALROUND (R106). -/
def execDiagonalRound (S : ChaChaState) (s : State) : Host.Outcome State Fault Refusal :=
  .next (withOpResult s (.state (diagonalRound S)))

/-- DOUBLEROUND (R107). -/
def execDoubleRound (S : ChaChaState) (s : State) : Host.Outcome State Fault Refusal :=
  .next (withOpResult s (.state (doubleRound S)))

/-- ROUNDSFINISH (R108). -/
def execRoundsFinish (mixed original : ChaChaState) (s : State) : Host.Outcome State Fault Refusal :=
  .next (withOpResult s (.state (roundsFinish mixed original)))

/-- STAGEPIPE (R109), with the engine's own number of double rounds. -/
def execStagePipe (X : ChaChaState) (s : State) : Host.Outcome State Fault Refusal :=
  .next (withOpResult s (.state (stagePipe s.cfg X)))

/-- CHACHAPERMUTE (R111). -/
def execChachaPermute (S : ChaChaState) (n : RoundCount) (s : State) : Host.Outcome State Fault Refusal :=
  .next (withOpResult s (.state (chachaPermute S (roundCountValue n))))

end Sys2Proof.Machine
end

