-- ==== Sys2Proof/Machine/Flags.lean ====
section
/-! DEFINITION. The one status flag, `done`, and the outputs of a cycle (spec/10_state.md R31; spec/41_scheduler.md R143, R144;
spec/70_reset_and_hazards.md R230). -/

namespace Sys2Proof.Machine

/-- `done := (ctr == T - 1)` (R143). -/
def doneFlag (s : State) : Bool := atLastStage s

/-- `state_out := done ? RoundsFinish(pout, prev) : 0^512` (R144). -/
def stateOut (s : State) (stateIn : ChaChaState) : ChaChaState :=
  if doneFlag s then roundsFinish (pipelineOut s stateIn) s.prev else zeroState

/-- The registers the outputs of a cycle are computed from: those from before the edge, but for an engine with an asynchronous
reset, whose reset cycle "already show[s] the reset state" (R230, log 6). -/
def outputRegisters (s : State) (rst : Bool) : State :=
  if rst && decide (s.cfg.resetStyle = .asynchronous) then clearRegisters s else s

/-- The outputs of a cycle (R140 step 2), not gated by `enabled` (decisions D4, D5, log 10). -/
def cycleOutputs (s : State) (rst : Bool) (stateIn : ChaChaState) : Outputs :=
  ⟨doneFlag (outputRegisters s rst), stateOut (outputRegisters s rst) stateIn⟩

/-- `after` with the outputs of the cycle that began in `before` recorded (log 9). -/
def recordOutputs (before after : State) (rst : Bool) (stateIn : ChaChaState) : State :=
  { after with lastOut := some (cycleOutputs before rst stateIn) }

end Sys2Proof.Machine
end

