-- ==== Sys2Proof/Machine/Scheduler.lean ====
section
/-! DEFINITION. The meanings of the cycle actions (spec/41_scheduler.md R147, R148, R149). Each records the outputs of the cycle
and updates the registers at the edge that ends it. -/

namespace Sys2Proof.Machine

/-- RESET (R147): "`enabled` and `state_in` are ignored" by the registers; `state_in` still reaches the outputs (R144). -/
def execReset (_enabled : Bool) (stateIn : ChaChaState) (s : State) : Host.Outcome State Fault Refusal :=
  .next (recordOutputs s (clearRegisters s) true stateIn)

/-- IDLE (R148): no register is written. -/
def execIdle (stateIn : ChaChaState) (s : State) : Host.Outcome State Fault Refusal :=
  .next (recordOutputs s s false stateIn)

/-- STEP (R149). -/
def execStep (stateIn : ChaChaState) (s : State) : Host.Outcome State Fault Refusal :=
  .next (recordOutputs s (stepRegisters s stateIn) false stateIn)

end Sys2Proof.Machine
end

