-- ==== Sys2Proof/Machine/WordOps.lean ====
section
/-! DEFINITION. The meanings of the word operators (spec/40_primitives.md R100, R101, R102): the result is left on the operator's
output and no register is touched (R112). -/

namespace Sys2Proof.Machine

/-- ADD32 (R100). -/
def execAdd32 (x y : Word) (s : State) : Host.Outcome State Fault Refusal :=
  .next (withOpResult s (.word (add32 x y)))

/-- XOR32 (R101). -/
def execXor32 (x y : Word) (s : State) : Host.Outcome State Fault Refusal :=
  .next (withOpResult s (.word (xor32 x y)))

/-- ROTL32 (R102): inside the contract the rotation, outside it a refusal (U4). -/
def execRotl32 (x : Word) (k : Nat) (s : State) : Host.Outcome State Fault Refusal :=
  if rotationInContract k then .next (withOpResult s (.word (rotl32 x k)))
  else .refused .rotationOutsideContract

end Sys2Proof.Machine
end

