-- ==== Sys2Proof/Machine/Dispatch.lean ====
section
/-! DEFINITION. One arm per constructor of Instr, each one direct call of its meaning. -/

namespace Sys2Proof.Machine

def exec (i : Instr) (s : State) : Host.Outcome State Fault Refusal :=
  match i with
  | .reset enabled stateIn => Sys2Proof.Machine.execReset enabled stateIn s
  | .idle stateIn => Sys2Proof.Machine.execIdle stateIn s
  | .step stateIn => Sys2Proof.Machine.execStep stateIn s
  | .add32 x y => Sys2Proof.Machine.execAdd32 x y s
  | .xor32 x y => Sys2Proof.Machine.execXor32 x y s
  | .rotl32 x k => Sys2Proof.Machine.execRotl32 x k s
  | .quarterRound S a b c d => Sys2Proof.Machine.execQuarterRound S a b c d s
  | .columnRound S => Sys2Proof.Machine.execColumnRound S s
  | .diagonalRound S => Sys2Proof.Machine.execDiagonalRound S s
  | .doubleRound S => Sys2Proof.Machine.execDoubleRound S s
  | .roundsFinish mixed original => Sys2Proof.Machine.execRoundsFinish mixed original s
  | .stagePipe X => Sys2Proof.Machine.execStagePipe X s
  | .chachaPermute S n => Sys2Proof.Machine.execChachaPermute S n s

end Sys2Proof.Machine
end

