-- ==== Sys2Proof/Machine/Step.lean ====
section
/-! DEFINITION. One step is one clock cycle (spec/41_scheduler.md R140, decision D1). -/

namespace Sys2Proof.Machine

/-- One cycle: the inputs presented select one action (R146), which runs. The engine fetches nothing (R2, R33); its inputs
are what it decodes. -/
def step (s : State) : Host.Outcome State Fault Refusal :=
  exec (decodeCycle (currentInput s)) (consumeInput s)

/-- `s` with the line of the `nbits` bits `w` (in the opcode table's numbering) presented as the inputs of the current cycle, in place of what was (log 4). -/
def State.withFetchWord (s : State) (nbits w : Nat) : State :=
  presentInput s (CycleInput.ofLine (lineOfTableBits (BitVec.ofNat 514 (BitVec.ofNat nbits w).toNat)))

end Sys2Proof.Machine
end

