-- ==== Sys2Proof/Machine/Construct.lean ====
section
/-! DEFINITION. Construction of an engine from a configuration pair (spec/30_encoding.md R75, R76; spec/60_exceptions.md R201,
R202). It happens before the first cycle and is never part of a step. -/

namespace Sys2Proof

/-- Whether the pair violates the condition of a kind, by R201's table. A remainder by 0 is undefined, so a pair with
`r = 0` neither satisfies nor violates NotADivisor (V-CFG-9). -/
def ConfigError.violatedBy (e : ConfigError) (n r : Nat) : Bool :=
  match e with
  | .invalidRoundCount => decide (¬ (n = 8 ∨ n = 12 ∨ n = 20))
  | .roundsPerCycleOutOfRange => decide (¬ (n ≥ r ∧ r > 0))
  | .notADivisor => decide (r ≠ 0 ∧ n % r ≠ 0)
  | .oddRoundsPerCycle => decide (r % 2 ≠ 0)

/-- The kinds that apply to a pair. -/
def Config.violations (n r : Nat) : List ConfigError :=
  [.invalidRoundCount, .roundsPerCycleOutOfRange, .notADivisor, .oddRoundsPerCycle].filter (·.violatedBy n r)

/-- The kind reported for an illegal pair: "any one of the violated kinds" (R202), by a free value (log 15). -/
def Config.reportedError (n r : Nat) : ConfigError :=
  (Config.violations n r).getD (Config.errorChoice n r % (Config.violations n r).length) .invalidRoundCount

/-- Construction (R201): a legal pair gives a configuration, an illegal one a configuration error and no engine.
`spareBits` is how much wider than ceil(log2 T) the counter register is (decision D6). -/
def Config.construct (n r : Nat) (style : ResetStyle) (edge : ClockEdge) (spareBits : Nat) : Except ConfigError Config :=
  if h : LegalPair n r then
    .ok { nRounds := n, roundsPerCycle := r, resetStyle := style, clockEdge := edge,
          ctrWidth := Nat.clog 2 (n / r) + spareBits, legal := h,
          wide := (Nat.le_pow_clog (by decide) _).trans (Nat.pow_le_pow_right (by decide) (Nat.le_add_right _ _)) }
  else .error (Config.reportedError n r)

end Sys2Proof
end

