-- ==== Sys2Proof/Machine/Driver.lean ====
section
/-! DEFINITION. The cycle-program notation and its pseudo-operations (spec/30_encoding.md R80, R81; decision D11), as data that
stands for inputs of the engine. No part of the engine reads them. -/

namespace Sys2Proof.Machine

/-- `<state>` of R80; `arbitrary` is `-` or an omitted `in=`. -/
inductive StateOperand where
  | range
  | zero
  | ones
  | words (S : ChaChaState)
  | arbitrary
  deriving DecidableEq, Repr

/-- A line of a cycle program: `<op> [in=<state>]` (R80). -/
structure ProgramLine where
  op : Action
  operand : StateOperand
  deriving DecidableEq, Repr

/-- The pseudo-operations of R81. The `<state>` of START and RUN is a definite state: R81 leaves open whether R80's `-` may stand
there, and with it R81's note on RUN would not hold for T = 1 (DESIGN CHOICE, log 22). -/
inductive Pseudo where
  | start (S : ChaChaState)
  | wait (k : Nat)
  | hold (k : Nat)
  | run (S : ChaChaState)
  deriving DecidableEq, Repr

/-- `RANGE` is `[0,1,...,15]` (R80). -/
def rangeState : ChaChaState := Vector.ofFn fun i => BitVec.ofNat 32 i.val

/-- `ONES` is sixteen words `0xFFFFFFFF` (R80). -/
def onesState : ChaChaState := Vector.replicate 16 0xFFFFFFFF

/-- The state an operand names; for an arbitrary operand, the driver's choice. -/
def operandValue (o : StateOperand) (choice : ChaChaState) : ChaChaState :=
  match o with
  | .range => rangeState
  | .zero => zeroState
  | .ones => onesState
  | .words S => S
  | .arbitrary => choice

/-- The inputs a line drives: "`RESET` drives CTL = `10` and `IDLE` drives `00`; `STEP` drives `01`" (R80). -/
def lineInput (l : ProgramLine) (choice : ChaChaState) : CycleInput :=
  match l.op with
  | .reset => ⟨true, false, operandValue l.operand choice⟩
  | .idle => ⟨false, false, operandValue l.operand choice⟩
  | .step => ⟨false, true, operandValue l.operand choice⟩

/-- `START <state>`: `RESET` then `STEP in=<state>` (R81). -/
def startLines (S : ChaChaState) : List ProgramLine := [⟨.reset, .arbitrary⟩, ⟨.step, .words S⟩]

/-- `WAIT <k>`: k lines of `STEP in=-` (R81). -/
def waitLines (k : Nat) : List ProgramLine := List.replicate k ⟨.step, .arbitrary⟩

/-- `HOLD <k>`: k lines of `IDLE in=-` (R81). -/
def holdLines (k : Nat) : List ProgramLine := List.replicate k ⟨.idle, .arbitrary⟩

/-- `RUN <state>`: for T > 1 `START <state>` then `WAIT T-1`; for T = 1 `START <state>` then `STEP in=<state>` (R81). -/
def runLines (cfg : Config) (S : ChaChaState) : List ProgramLine :=
  if cfg.totalStages = 1 then startLines S ++ [⟨.step, .words S⟩]
  else startLines S ++ waitLines (cfg.totalStages - 1)

/-- The expansion of a pseudo-operation (R81). -/
def expand (cfg : Config) : Pseudo → List ProgramLine
  | .start S => startLines S
  | .wait k => waitLines k
  | .hold k => holdLines k
  | .run S => runLines cfg S

/-- The inputs a program drives, one choice of an arbitrary operand for each line. -/
def driveProgram (lines : List ProgramLine) (choices : List ChaChaState) : List CycleInput :=
  List.zipWith lineInput lines choices

/-- `s` with a driver that has lined up `ins`. -/
def State.drivenBy (s : State) (ins : List CycleInput) : State := { s with pending := ins }

end Sys2Proof.Machine
end

