-- ==== Sys2Proof/Machine/NextState.lean ====
section
/-! DEFINITION. The complete next-state function and the four cases of STEP, as spec/41_scheduler.md R151 and R150 write them: a
second text beside the meanings of the actions, for claims that compare the two. -/

namespace Sys2Proof.Machine

/-- `next(cfg, (ctr, inter, prev), (rst, en, state_in))`, R151 line by line. -/
def nextRegs (cfg : Config) (r : Regs cfg.totalStages) (p : CycleInput) : Regs cfg.totalStages :=
  if p.rst then Regs.reset cfg
  else if !p.enabled then r
  else
    let pin := if r.ctr = 0 then p.stateIn else r.inter
    let pout := stagePipe cfg pin
    let prev' := if r.ctr = 0 then p.stateIn else r.prev
    if h : r.ctr ≠ cfg.totalStages - 1 then ⟨r.ctr + 1, pout, prev', by have := r.inRange; omega⟩
    else ⟨r.ctr, r.inter, prev', r.inRange⟩

end Sys2Proof.Machine
end

