-- ==== Sys2Proof/Safety.lean ====
section
/-! DEFINITION. The terms claims use: the schedule invariant (spec/10_state.md R30; spec/41_scheduler.md R156) and runs of
the machine over a list of inputs. -/

namespace Sys2Proof.Machine

/-- What holds of every reachable state, beside the range of the counter, which is in the type (R25): mid-run,
`inter = StagePipe^ctr(prev)` (R30, with `prev` the state captured at counter 0); at counter 0 no stage has been written, so
`inter` is still 0^512, and when T > 1 neither has `prev` (R156: "For T > 1, `ctr == 0` holds only in the reset state"). -/
abbrev State.Inv (s : State) : Prop :=
  (s.ctr ≠ 0 → s.inter = (stagePipe s.cfg)^[s.ctr] s.prev) ∧
  (s.ctr = 0 → s.inter = zeroState) ∧
  (s.ctr = 0 → 1 < s.cfg.totalStages → s.prev = zeroState)

/-- The machine runs through the inputs `ins`, one step each, from `s`, and ends in `t`. -/
abbrev RunsTo (s : State) (ins : List CycleInput) (t : State) : Prop :=
  Sys2Proof.core.run ins.length (s.drivenBy ins) = .next t

/-- How many of the inputs select STEP. -/
def stepCount (ins : List CycleInput) : Nat := (ins.filter fun p => !p.rst && p.enabled).length

/-- Whether an input selects IDLE. -/
def isIdle (p : CycleInput) : Bool := !p.rst && !p.enabled

/-- The first state presented with a STEP, if any input selects STEP. -/
def firstStepped (ins : List CycleInput) : Option ChaChaState :=
  (ins.find? fun p => !p.rst && p.enabled).map CycleInput.stateIn

/-- The last state presented with a STEP, if any input selects STEP. -/
def lastStepped (ins : List CycleInput) : Option ChaChaState := firstStepped ins.reverse

/-- The inputs after the last one that selects RESET. -/
def sinceReset (ins : List CycleInput) : List CycleInput := (ins.reverse.takeWhile fun p => !p.rst).reverse

/-- The outputs of a cycle with these inputs are computed from the registers before the edge: every cycle but the reset cycle
of an engine with an asynchronous reset (70_reset_and_hazards R230). -/
abbrev ShowsRegisters (cfg : Config) (p : CycleInput) : Prop := p.rst = false ∨ cfg.resetStyle = .synchronous

end Sys2Proof.Machine
end

