-- ==== Sys2Proof/Certificates/Slice0/Obligations.lean ====
section
/-! DEFINITION. The statements for the provers. Each docstring names the rules of spec/ it formalises; where a clause rests on a
choice of the model, it names the log entry. What a cycle shows is read off `lastOut`, the result of an operator off `opResult`,
and the inputs of a run are lined up in `pending`: all three are the model's own fields (logs 9, 11 and 3). -/

open Sys2Proof Sys2Proof.Machine

/-- R73's words, as spec/opcode_table.json numbers them, decode to their actions; then a whole line (R80), CTL `01` followed by R71's
worked example as `state_in`, and the same line in the table's numbering (where its `state_in` then lies is log 14's choice).
That `11` is RESET, so that `rst` has priority over `enabled`, is no word of the source: R73's own row marks it as decision D2, and
it is the model's choice in log 5. -/
def Obligations.CtlWordsDecodeToTheirActions : Prop :=
  decodeTableWord 8 0b00 = some (.idle zeroState) ∧
  decodeTableWord 8 0b01 = some (.step zeroState) ∧
  decodeTableWord 8 0b10 = some (.reset false zeroState) ∧
  decodeTableWord 8 0b11 = some (.reset true zeroState) ∧
  decodeLine 0x1000000000000000100000002000000030000000400000005000000060000000700000008000000090000000a0000000b0000000c0000000d0000000e0000000f#514 =
    .step #v[0, 1, 2, 3, 4, 5, 6, 7, 8, 9, 10, 11, 12, 13, 14, 15] ∧
  decodeTableWord 514 (0x000000000000000100000002000000030000000400000005000000060000000700000008000000090000000a0000000b0000000c0000000d0000000e0000000f * 4 + 0b01)
    = some (.step #v[0, 1, 2, 3, 4, 5, 6, 7, 8, 9, 10, 11, 12, 13, 14, 15])

/-- R73 and R146: the truth table of CTL, and its match and mask pairs, one and only one of which matches each value. That `rst`
selects RESET whatever `enabled` is, is no word of the source: R146 calls it "this spec's own choice" (decision D2), and it is the
model's choice in log 5. -/
def Obligations.EveryCtlValueSelectsOneAction : Prop :=
  ∀ p : CycleInput,
    p.ctl.getLsbD 1 = p.rst ∧ p.ctl.getLsbD 0 = p.enabled ∧
    (p.rst = true → decodeCycle p = .reset p.enabled p.stateIn) ∧
    (p.rst = false → p.enabled = false → decodeCycle p = .idle p.stateIn) ∧
    (p.rst = false → p.enabled = true → decodeCycle p = .step p.stateIn) ∧
    (∀ row ∈ [(⟨.reset, 0b10, 0b10⟩ : CtlRow), ⟨.idle, 0b00, 0b11⟩, ⟨.step, 0b01, 0b11⟩],
      p.ctl &&& row.mask = row.matchBits ↔ row.action = decodeCtl p.ctl)

/-- R71 and R54: bit `(15-i)*32 + j` of the packed value is bit `j` of word `i`, and packing and unpacking undo each other, so
"Every 512-bit value is a valid state". -/
def Obligations.StatesPackWordZeroMostSignificant : Prop :=
  (∀ (S : ChaChaState) (i : Fin 16) (j : Nat), j < 32 →
    (packState S).getLsbD ((15 - i.val) * 32 + j) = (S.get i).getLsbD j) ∧
  (∀ S : ChaChaState, unpackState (packState S) = S) ∧
  (∀ v : BitVec 512, packState (unpackState v) = v)

/-- Decode and encode agree on every cycle action, with `enabled` and `state_in` at every value: as a line (R80), and as a word in the
opcode table's numbering (log 14); the operators have no encoding. -/
def Obligations.DecodingAnEncodedActionGivesItBack : Prop :=
  (∀ i : Instr, i.isCycleAction = true →
    ∃ line : BitVec 514, encode i = some line ∧ decodeLine line = i ∧
      decode 514 (tableBitsOfLine line).toNat = .ok i ∧ decodeTableWord 514 (tableBitsOfLine line).toNat = some i) ∧
  (∀ i : Instr, i.isCycleAction = false → encode i = none)

/-- R80 and R74: a line is "its CTL bits `rst en` followed by the 512-bit `state_in`" (95_test_vectors section 4), bit by bit; every
value of CTL with every value of `state_in` is a cycle action, well-formed, and no two lines are the same action. In the opcode
table's numbering (log 14) every number of 514 bits is one line. -/
def Obligations.EveryLineIsOneActionThatEncodesToIt : Prop :=
  (∀ line : BitVec 514,
    (CycleInput.ofLine line).rst = line.getLsbD 513 ∧ (CycleInput.ofLine line).enabled = line.getLsbD 512 ∧
    (∀ k, k < 512 → (packState (CycleInput.ofLine line).stateIn).getLsbD k = line.getLsbD k) ∧
    (decodeLine line).isCycleAction = true ∧ (decodeLine line).wellFormed = true ∧ encode (decodeLine line) = some line ∧
    decode 514 (tableBitsOfLine line).toNat = .ok (decodeLine line)) ∧
  (∀ bits : BitVec 514, tableBitsOfLine (lineOfTableBits bits) = bits)

/-- R4 and R76: the legal pairs are exactly eleven, with their T and K. -/
def Obligations.ExactlyElevenLegalConfigurations : Prop :=
  (∀ n r : Nat, ((n = 8 ∨ n = 12 ∨ n = 20) ∧ (n ≥ r ∧ r > 0) ∧ n % r = 0 ∧ r % 2 = 0) ↔
    (n, r) ∈ [(8, 2), (8, 4), (8, 8), (12, 2), (12, 4), (12, 6), (12, 12), (20, 2), (20, 4), (20, 10), (20, 20)]) ∧
  (∀ c : Config, (c.nRounds, c.roundsPerCycle, c.totalStages, c.unitsPerStage) ∈
    [(8, 2, 4, 1), (8, 4, 2, 2), (8, 8, 1, 4), (12, 2, 6, 1), (12, 4, 3, 2), (12, 6, 2, 3), (12, 12, 1, 6),
     (20, 2, 10, 1), (20, 4, 5, 2), (20, 10, 2, 5), (20, 20, 1, 10)])

/-- R201 and R202: a legal pair (R76) constructs an engine's configuration, and an illegal one is rejected with one of the kinds it
violates; which condition each kind stands for. The source does not say which kind is reported: that it is any violated one is the
spec's own decision D20, and log 15's choice makes it a free value. For `r = 0` the last clause claims nothing of NotADivisor
(log 15). -/
def Obligations.IllegalConfigurationsGiveNoEngine : Prop :=
  (∀ (n r : Nat) (style : ResetStyle) (edge : ClockEdge) (spare : Nat),
    (LegalPair n r → ∃ c : Config, Config.construct n r style edge spare = .ok c ∧
      c.nRounds = n ∧ c.roundsPerCycle = r ∧ c.resetStyle = style ∧ c.clockEdge = edge) ∧
    (¬ LegalPair n r → ∃ e : ConfigError, Config.construct n r style edge spare = .error e ∧ e.violatedBy n r = true)) ∧
  (∀ n r : Nat,
    (ConfigError.invalidRoundCount.violatedBy n r = true ↔ ¬ (n = 8 ∨ n = 12 ∨ n = 20)) ∧
    (ConfigError.roundsPerCycleOutOfRange.violatedBy n r = true ↔ ¬ (n ≥ r ∧ r > 0)) ∧
    (ConfigError.oddRoundsPerCycle.violatedBy n r = true ↔ r % 2 ≠ 0) ∧
    (r > 0 → (ConfigError.notADivisor.violatedBy n r = true ↔ n % r ≠ 0)))

/-- R20: no action and no operator writes the configuration. -/
def Obligations.ConfigurationNeverChanges : Prop :=
  (∀ (i : Instr) (s t : State), exec i s = .next t → t.cfg = s.cfg) ∧
  (∀ s t : State, step s = .next t → t.cfg = s.cfg)

/-- A step runs the action decoded from the inputs presented, and uses those inputs up. Where the driver has lined up nothing,
the inputs are the free value of log 3; the numbering of a word of the opcode table beyond CTL is log 14's choice. -/
def Obligations.StepRunsTheDecodedAction : Prop :=
  (∀ (s : State) (p : CycleInput) (rest : List CycleInput), s.pending = p :: rest →
    step s = exec (decodeCycle p) { s with pending := rest, cycle := s.cycle + 1 }) ∧
  (∀ s : State, s.pending = [] →
    step s = exec (decodeCycle (CycleInput.ofLine (Config.driverLine s.cycle))) { s with cycle := s.cycle + 1 }) ∧
  (∀ (s : State) (line : BitVec 514),
    step (presentInput s (CycleInput.ofLine line)) =
      exec (decodeLine line) { s with pending := s.pending.tail, cycle := s.cycle + 1 }) ∧
  (∀ (s : State) (nbits w : Nat) (i : Instr), decode nbits w = .ok i →
    step (s.withFetchWord nbits w) = exec i { s with pending := s.pending.tail, cycle := s.cycle + 1 })

/-- R200: every cycle, from every state and with whatever inputs, answers a next state, and so does every operator inside its
contract; an operator outside it is refused (R102, R103; U3, U4). That the contract takes in every four distinct indices, where U3
speaks of the eight wired groups alone, is log 12's deduction, and that it takes in every `0 < k < 32` is log 13's. -/
def Obligations.NothingStopsTheEngine : Prop :=
  (∀ s : State, ∃ t, step s = .next t) ∧
  (∀ (i : Instr) (s : State), i.wellFormed = true → ∃ t, exec i s = .next t) ∧
  (∀ (i : Instr) (s : State), i.wellFormed = false → ∃ r, exec i s = .refused r)

/-- R151: a step takes the registers to R151's next-state function of them, keeps the counter in `[0, T)` (R25), and writes nothing
else of the hardware. The model's own: that `rst` is looked at before `enabled` (log 5, decision D2), and the fields `pending`,
`cycle`, `lastOut` and `opResult` (logs 3, 9, 11). -/
def Obligations.StepIsTheNextStateFunction : Prop :=
  ∀ s : State, ∃ t, step s = .next t ∧
    t.triple =
      (if (currentInput s).rst then ⟨0, zeroState, zeroState⟩
       else if (currentInput s).enabled then
         ⟨if s.ctr ≠ s.cfg.totalStages - 1 then s.ctr + 1 else s.ctr,
          if s.ctr ≠ s.cfg.totalStages - 1 then stagePipe s.cfg (if s.ctr = 0 then (currentInput s).stateIn else s.inter)
            else s.inter,
          if s.ctr = 0 then (currentInput s).stateIn else s.prev⟩
       else s.triple) ∧
    t.triple = (nextRegs s.cfg s.regs (currentInput s)).triple ∧
    t.ctr < t.cfg.totalStages ∧
    t.cfg = s.cfg ∧ t.pending = s.pending.tail ∧ t.cycle = s.cycle + 1 ∧ t.opResult = s.opResult

/-- R147: RESET from any state; applied twice it is the same as once; it alone takes the counter back to 0; under a synchronous
reset its cycle shows the outputs of the state before. That last clause rests on choices: that the reset is synchronous is the
spec's own decision D2, and that `rst` does not gate the outputs is log 10's deduction (D4); that RESET is taken whatever `enabled`
is, is log 5's choice. The frame is everything but the registers and the recorded outputs (`lastOut`, log 9). -/
def Obligations.ResetClearsEveryRegister : Prop :=
  (∀ (e : Bool) (x : ChaChaState) (s : State), ∃ t,
    exec (.reset e x) s = .next t ∧
    t = { s with regs := Regs.reset s.cfg, lastOut := t.lastOut } ∧ t.triple = ⟨0, zeroState, zeroState⟩ ∧
    (doneFlag t = true ↔ s.cfg.totalStages = 1) ∧
    (s.cfg.resetStyle = .synchronous → t.lastOut = some ⟨doneFlag s, stateOut s x⟩) ∧
    (∀ (e' : Bool) (x' : ChaChaState), ∃ u, exec (.reset e' x') t = .next u ∧ u.triple = t.triple)) ∧
  (∀ (i : Instr) (s t : State), exec i s = .next t → s.ctr ≠ 0 → t.ctr = 0 → ∃ e x, i = .reset e x)

/-- R148: IDLE writes no register, also at counter 0, and its cycle still shows the outputs; at the last stage of a multi-stage
engine these do not depend on `state_in`. That `enabled` does not gate the outputs is log 10's deduction (decisions D4 and D5),
and their record in `lastOut` is log 9's choice. -/
def Obligations.IdleHoldsEveryRegister : Prop :=
  (∀ (x : ChaChaState) (s : State),
    exec (.idle x) s = .next { s with lastOut := some ⟨doneFlag s, stateOut s x⟩ }) ∧
  (∀ (x : ChaChaState) (s : State), 1 < s.cfg.totalStages → s.ctr = s.cfg.totalStages - 1 →
    doneFlag s = true ∧ stateOut s x = roundsFinish (stagePipe s.cfg s.inter) s.prev)

/-- R149 and R150: the four cases of STEP, and that nothing else changes; the counter never passes `T - 1`. What its cycle shows are
R143's and R144's outputs of the registers before the edge (R140), recorded in `lastOut` by log 9's choice; for T = 1 they are the
literal reading of decision D15 (log 16). -/
def Obligations.StepFollowsItsFourCases : Prop :=
  ∀ (x : ChaChaState) (s : State), ∃ r : Regs s.cfg.totalStages,
    exec (.step x) s = .next { s with regs := r, lastOut := some ⟨doneFlag s, stateOut s x⟩ } ∧
    (s.ctr = 0 → 1 < s.cfg.totalStages → r.triple = ⟨1, stagePipe s.cfg x, x⟩) ∧
    (0 < s.ctr → s.ctr < s.cfg.totalStages - 1 → r.triple = ⟨s.ctr + 1, stagePipe s.cfg s.inter, s.prev⟩) ∧
    (s.ctr = s.cfg.totalStages - 1 → 1 < s.cfg.totalStages → r = s.regs) ∧
    (s.ctr = 0 → s.cfg.totalStages = 1 → r.triple = ⟨0, s.inter, x⟩) ∧
    r.ctr ≤ s.cfg.totalStages - 1

/-- R141 to R144: the outputs of every cycle, whatever `enabled` and `rst` are (log 10, DEDUCED from decisions D4 and D5), but for
the reset cycle of an engine with an asynchronous reset (log 6), which is `ResetStyleShowsOnlyInTheResetCycle`. For T = 1 this is
the literal reading of decision D15 (log 16). -/
def Obligations.OutputsOfEveryCycle : Prop :=
  ∀ s : State, ShowsRegisters s.cfg (currentInput s) →
    ∃ t o, step s = .next t ∧ t.lastOut = some o ∧
      (o.done = true ↔ s.ctr = s.cfg.nRounds / s.cfg.roundsPerCycle - 1) ∧
      (o.done = true → o.stateOut =
        roundsFinish (doubleRound^[s.cfg.roundsPerCycle / 2] (if s.ctr = 0 then (currentInput s).stateIn else s.inter)) s.prev) ∧
      (o.done = false → o.stateOut = zeroState)

/-- R230: an asynchronous reset differs from a synchronous one only in that "the outputs of the reset cycle already show the reset
state"; the registers after the edge are the reset state either way, whatever `enabled` is, and every other cycle shows the same.
R230 marks that sentence as the spec's own decision D2: what an asynchronous reset cycle shows is log 6's deduction, that `rst`
has priority over `enabled` is log 5's choice, and that the reset cycle shows outputs at all is log 10's deduction. -/
def Obligations.ResetStyleShowsOnlyInTheResetCycle : Prop :=
  (∀ (s : State) (style : ResetStyle), ∃ t u,
    step s = .next t ∧ step { s with cfg := { s.cfg with resetStyle := style } } = .next u ∧
    u.triple = t.triple ∧ ((currentInput s).rst = false → u.lastOut = t.lastOut)) ∧
  (∀ s : State, (currentInput s).rst = true → ∃ t,
    step s = .next t ∧ t.triple = ⟨0, zeroState, zeroState⟩ ∧
    (s.cfg.resetStyle = .synchronous → t.lastOut = some ⟨doneFlag s, stateOut s (currentInput s).stateIn⟩) ∧
    (s.cfg.resetStyle = .asynchronous → t.lastOut = some ⟨doneFlag t, stateOut t (currentInput s).stateIn⟩))

/-- R7: `CTR_WIDTH` and `CLOCK_EDGE` are unobservable: an engine that differs in them alone takes the same registers and shows
the same outputs; and the counter, which is in `[0, T)` by its type (R25), fits its register. -/
def Obligations.CounterWidthAndClockEdgeAreUnobservable : Prop :=
  (∀ (s : State) (w : Nat) (h : s.cfg.nRounds / s.cfg.roundsPerCycle ≤ 2 ^ w) (edge : ClockEdge), ∃ t u,
    step s = .next t ∧ step { s with cfg := { s.cfg with ctrWidth := w, wide := h, clockEdge := edge } } = .next u ∧
    u.triple = t.triple ∧ u.lastOut = t.lastOut) ∧
  (∀ s : State, s.ctr < 2 ^ s.cfg.ctrWidth)

/-- R30, R156: the schedule invariant is kept by every step, and by every instruction. -/
def Obligations.StepKeepsTheScheduleInvariant : Prop :=
  (∀ s t : State, s.Inv → step s = .next t → t.Inv) ∧
  (∀ (i : Instr) (s t : State), s.Inv → exec i s = .next t → t.Inv)

/-- R232 (the spec's decision D3): at instantiation the machine is in the reset state, for every configuration; the invariant holds
there. That
`State.reset` has the configuration (20, 2) is log 2's choice. -/
def Obligations.PowerOnIsTheResetStateAndMeetsTheInvariant : Prop :=
  (∀ cfg : Config, (State.powerOn cfg).triple = ⟨0, zeroState, zeroState⟩ ∧ (State.powerOn cfg).cfg = cfg ∧
    (State.powerOn cfg).Inv) ∧
  State.reset = State.powerOn Config.reference ∧ State.reset.Inv

/-- R30 over whole histories: after any inputs from power-on, the counter is the number of STEPs since the last RESET, held at
`T - 1` (R156's `ctr = min(j, T-1)`); at counter 0 of a multi-stage engine the registers are the reset state (R156); mid-run `prev`
is the `state_in` of the STEP that left counter 0 and `inter = StagePipe^ctr(prev)`; with T = 1, `inter` is never written and
`prev` is the `state_in` of the most recent STEP (R158). The inputs are lined up in the model's queue (log 3), and a cycle with
`rst` = 1 is a RESET whatever `enabled` is (log 5). -/
def Obligations.HistoryDeterminesTheRegisters : Prop :=
  ∀ (cfg : Config) (ins : List CycleInput), ∃ t,
    RunsTo (State.powerOn cfg) ins t ∧
    t.ctr = min (stepCount (sinceReset ins)) (cfg.totalStages - 1) ∧
    (t.ctr = 0 → t.inter = zeroState ∧ (1 < cfg.totalStages → t.prev = zeroState)) ∧
    (t.ctr ≠ 0 → firstStepped (sinceReset ins) = some t.prev ∧
      t.inter = (stagePipe cfg)^[t.ctr] t.prev ∧ t.inter = doubleRounds (t.ctr * cfg.unitsPerStage) t.prev) ∧
    (cfg.totalStages = 1 → t.inter = zeroState ∧ t.prev = (lastStepped (sinceReset ins)).getD zeroState)

/-- R156 and R159: the result of a run is `ChaChaPermute(S, n)`, and until the cycle after the (T-1)-th STEP edge nothing shows.
The cycle looked at is the one with the inputs `p`, after any inputs `ins` from power-on. For T = 1 only the result cycles of
R159 are claimed (R158, U10). Two things are deduced: that `done` first shows in the cycle after the (T-1)-th STEP edge is log 20
(decision D14), and that a cycle shows it whether it is STEP, IDLE or RESET is log 10 (D4, D5). The inputs are lined up in the
model's queue (log 3), and `rst` has priority over `enabled` (log 5). The cycle left out, the reset cycle of an asynchronous engine,
is log 6's deduction. -/
def Obligations.RunResultIsTheReferencePermutation : Prop :=
  ∀ (cfg : Config) (ins : List CycleInput) (p : CycleInput), ShowsRegisters cfg p →
    ∃ t, RunsTo (State.powerOn cfg) (ins ++ [p]) t ∧
      (∀ S, 1 < cfg.totalStages → firstStepped (sinceReset ins) = some S → cfg.totalStages - 1 ≤ stepCount (sinceReset ins) →
        t.lastOut = some ⟨true, chachaPermute S cfg.nRounds⟩) ∧
      (stepCount (sinceReset ins) < cfg.totalStages - 1 → t.lastOut = some ⟨false, zeroState⟩) ∧
      (cfg.totalStages = 1 → lastStepped (sinceReset ins) = some p.stateIn →
        t.lastOut = some ⟨true, chachaPermute p.stateIn cfg.nRounds⟩)

/-- R81: the pseudo-operations' expansions, and RUN from any state whatever, for every legal configuration and every choice of the
arbitrary inputs: in the last cycle of the expansion `done` is 1 and `state_out` is the permutation. That the T-th STEP cycle is
one with `done` = 1, so that the expansion is long enough, is log 20's deduction (decision D14); that START and RUN take a definite
state and not `-` is log 22's choice; the inputs are lined up in the model's queue (log 3). -/
def Obligations.PseudoRunShowsThePermutation : Prop :=
  (∀ (cfg : Config) (S a b : ChaChaState),
    driveProgram (expand cfg (.start S)) [a, b] = [⟨true, false, a⟩, ⟨false, true, S⟩]) ∧
  (∀ (cfg : Config) (xs : List ChaChaState),
    driveProgram (expand cfg (.wait xs.length)) xs = xs.map fun x => ⟨false, true, x⟩) ∧
  (∀ (cfg : Config) (xs : List ChaChaState),
    driveProgram (expand cfg (.hold xs.length)) xs = xs.map fun x => ⟨false, false, x⟩) ∧
  (∀ (cfg : Config) (S : ChaChaState),
    (1 < cfg.totalStages → expand cfg (.run S) = expand cfg (.start S) ++ expand cfg (.wait (cfg.totalStages - 1))) ∧
    (cfg.totalStages = 1 → expand cfg (.run S) = expand cfg (.start S) ++ [⟨.step, .words S⟩])) ∧
  (∀ (s : State) (S : ChaChaState) (choices : List ChaChaState), choices.length = (expand s.cfg (.run S)).length →
    ∃ t, RunsTo s (driveProgram (expand s.cfg (.run S)) choices) t ∧
      t.lastOut = some ⟨true, chachaPermute S s.cfg.nRounds⟩)

/-- R153: IDLE cycles, wherever they stand, change no register state a run passes through. -/
def Obligations.IdleCyclesOnlyDelayARun : Prop :=
  ∀ (s : State) (ins : List CycleInput), ∃ t u,
    RunsTo s ins t ∧ RunsTo s (ins.filter fun p => !isIdle p) u ∧ t.triple = u.triple

/-- R154 (decision D16): away from counter 0 neither the registers nor the outputs read `state_in`, so the whole next state is the
same. The inputs are presented through the model's queue (log 3), the outputs are recorded in `lastOut` (log 9), and the reset
cycle of an asynchronous engine is log 6's deduction. -/
def Obligations.NewInputMidRunIsIgnored : Prop :=
  ∀ (s : State) (rst enabled : Bool) (x y : ChaChaState), s.ctr ≠ 0 →
    step (presentInput s ⟨rst, enabled, x⟩) = step (presentInput s ⟨rst, enabled, y⟩)

/-- R155: without a RESET a started engine never returns to counter 0, however many STEP and IDLE cycles pass, and keeps the input
it captured; a STEP at counter 0 starts a run on a new input, which for T = 1 is every STEP. -/
def Obligations.EngineIsOneShotUntilReset : Prop :=
  (∀ (s : State) (ins : List CycleInput), s.ctr ≠ 0 → (∀ p ∈ ins, p.rst = false) →
    ∃ t, RunsTo s ins t ∧ t.ctr ≠ 0 ∧ t.prev = s.prev) ∧
  (∀ (s : State) (x : ChaChaState), s.ctr = 0 →
    ∃ t, exec (.step x) s = .next t ∧ t.prev = x ∧ (s.cfg.totalStages = 1 → t.ctr = 0))

/-- R152: at the last stage, STEP and IDLE change no register but `prev` of a single-stage engine; with T > 1, `done` stays 1 and
`state_out` stays the same in every later cycle until a RESET. That they do so through IDLE cycles, where the source says only
"as long as `enabled` stays asserted" (90_conflicts C7), is log 10's deduction (decisions D4 and D5). -/
def Obligations.TerminalStageHolds : Prop :=
  (∀ (s : State) (ins : List CycleInput), 1 < s.cfg.totalStages → s.ctr = s.cfg.totalStages - 1 →
    (∀ p ∈ ins, p.rst = false) →
    ∃ t, RunsTo s ins t ∧ t.triple = s.triple ∧
      (ins ≠ [] → t.lastOut = some ⟨true, roundsFinish (stagePipe s.cfg s.inter) s.prev⟩)) ∧
  (∀ s : State, s.ctr = s.cfg.totalStages - 1 → (currentInput s).rst = false →
    ∃ t, step s = .next t ∧ t.ctr = s.ctr ∧ t.inter = s.inter)

/-- R157: before the last stage of a multi-stage engine `done` is 0 and `state_out` is 0^512, in every cycle, the reset cycle
included. In IDLE and RESET cycles this rests on log 10's deduction that the outputs are driven in every cycle (D4, D5), and in the reset
cycle of an asynchronous engine on log 6's. -/
def Obligations.NothingShowsBeforeCompletion : Prop :=
  ∀ s : State, s.ctr < s.cfg.totalStages - 1 →
    ∃ t, step s = .next t ∧ t.lastOut = some ⟨false, zeroState⟩

/-- R158 and R238, in the cycles where every reading of the source agrees (U10, log 16): a single-stage engine stays at counter 0
with `done` 1 in every cycle (in IDLE and RESET cycles by log 10), and shows the permutation of `state_in` where `prev` equals it,
which a STEP with that `state_in` brings about. What the reset cycle of an asynchronous engine shows is log 6's deduction. -/
def Obligations.SingleStageEngineShowsThePermutationOfAHeldInput : Prop :=
  (∀ s : State, s.cfg.totalStages = 1 →
    s.ctr = 0 ∧ ∃ t o, step s = .next t ∧ t.ctr = 0 ∧ t.lastOut = some o ∧ o.done = true ∧
      (ShowsRegisters s.cfg (currentInput s) → (currentInput s).stateIn = s.prev →
        o.stateOut = chachaPermute s.prev s.cfg.nRounds)) ∧
  (∀ (s : State) (S : ChaChaState) (p : CycleInput), s.cfg.totalStages = 1 → ShowsRegisters s.cfg p → p.stateIn = S →
    ∃ t, RunsTo s [⟨false, true, S⟩, p] t ∧ t.lastOut = some ⟨true, chachaPermute S s.cfg.nRounds⟩)

/-- R143 and R151 together: when the stage counter and `done` change depends on the control inputs alone, never on the data. Two
engines at the same counter, driven with the same `rst` and `enabled` and any two streams of data, stay in step. That `done` shows
in IDLE and RESET cycles is log 10's deduction, and in the reset cycle of an asynchronous engine log 6's. -/
def Obligations.ProgressNeverDependsOnData : Prop :=
  ∀ (s s' : State) (ins ins' : List CycleInput), s.cfg = s'.cfg → s.ctr = s'.ctr →
    ins.map CycleInput.ctl = ins'.map CycleInput.ctl →
    ∃ t t', RunsTo s ins t ∧ RunsTo s' ins' t' ∧ t.ctr = t'.ctr ∧
      (ins ≠ [] → t.lastOut.map Outputs.done = t'.lastOut.map Outputs.done)

/-- R59: "stage `k+1`'s pipeline input is guaranteed to be exactly stage `k`'s pipeline output". -/
def Obligations.StageHandsItsOutputToTheNext : Prop :=
  ∀ (s : State) (x : ChaChaState), s.ctr ≠ s.cfg.totalStages - 1 →
    ∃ t, exec (.step x) s = .next t ∧ ∀ y, pipelineIn t y = pipelineOut s x

/-- R145: the outputs hold no state of their own. That neither `rst` nor `enabled` gates them is not R145's: it is the spec's own
decision D4 (R143, R144) and the model's deduction in log 10, unsafe for IDLE and RESET cycles. The cycle left out, the reset cycle
of an asynchronous engine, is log 6's deduction; the outputs are recorded in `lastOut` (log 9) and the inputs presented through the
model's queue (log 3). -/
def Obligations.OutputsHoldNoStateOfTheirOwn : Prop :=
  ∀ (s s' : State) (p p' : CycleInput), s.cfg = s'.cfg → s.triple = s'.triple → (s.ctr = 0 → p.stateIn = p'.stateIn) →
    ShowsRegisters s.cfg p → ShowsRegisters s'.cfg p' →
    ∃ t t', step (presentInput s p) = .next t ∧ step (presentInput s' p') = .next t' ∧ t.lastOut = t'.lastOut

/-- R243: under a synchronous reset, a driver may read the result in the cycle that applies RESET, so a multi-stage engine takes
T cycles from one capture to the next. That the reset cycle still shows the result rests on decision D2 and log 10, and the count
of cycles on log 20 (decision D14). -/
def Obligations.OnePermutationEveryTCycles : Prop :=
  ∀ (s : State) (S : ChaChaState) (xs : List ChaChaState) (e : Bool) (y : ChaChaState),
    s.cfg.resetStyle = .synchronous → 1 < s.cfg.totalStages → s.triple = ⟨0, zeroState, zeroState⟩ → xs.length + 2 = s.cfg.totalStages →
    ∃ t, RunsTo s (⟨false, true, S⟩ :: (xs.map fun x => ⟨false, true, x⟩) ++ [⟨true, e, y⟩]) t ∧
      t.lastOut = some ⟨true, chachaPermute S s.cfg.nRounds⟩ ∧ t.triple = ⟨0, zeroState, zeroState⟩

/-- R100: `add32(x, y) := (x + y) mod 2^32`, commutative, the carry kept nowhere; the result is left in `opResult` (log 11) and
nothing else changes. -/
def Obligations.Add32IsTheSumModuloTwoTo32 : Prop :=
  ∀ (x y : Word) (s : State), ∃ w : Word,
    exec (.add32 x y) s = .next { s with opResult := some (.word w) } ∧
    w.toNat = (x.toNat + y.toNat) % 2 ^ 32 ∧ exec (.add32 y x) s = exec (.add32 x y) s

/-- R101, bit by bit; the result is left in `opResult` (log 11) and nothing else changes. -/
def Obligations.Xor32DiffersBitByBit : Prop :=
  ∀ (x y : Word) (s : State), ∃ w : Word,
    exec (.xor32 x y) s = .next { s with opResult := some (.word w) } ∧
    ∀ j, j < 32 → w.getLsbD j = (x.getLsbD j != y.getLsbD j)

/-- R102: `rotl32(x,k)[j] = x[(j - k) mod 32]` inside the contract, refused outside it; the result is left in `opResult` (log 11)
and nothing else changes. -/
def Obligations.Rotl32MovesEveryBit : Prop :=
  (∀ (x : Word) (k : Nat) (s : State), 0 < k → k < 32 → ∃ w : Word,
    exec (.rotl32 x k) s = .next { s with opResult := some (.word w) } ∧
    ∀ j, j < 32 → w.getLsbD j = x.getLsbD ((j + 32 - k) % 32)) ∧
  (∀ (x : Word) (k : Nat) (s : State), ¬ (0 < k ∧ k < 32) → exec (.rotl32 x k) s = .refused .rotationOutsideContract)

/-- R103 and R104: a quarter round inside its contract, from the four words read at entry; all other words are unchanged. Outside
the contract it is refused (U3). The result is left in `opResult` (log 11) and nothing else changes. -/
def Obligations.QuarterRoundMixesFourWords : Prop :=
  (∀ (S : ChaChaState) (a b c d : Fin 16) (s : State), a ≠ b → a ≠ c → a ≠ d → b ≠ c → b ≠ d → c ≠ d →
    ∃ R : ChaChaState, exec (.quarterRound S a b c d) s = .next { s with opResult := some (.state R) } ∧
      (∃ a1 b1 c1 d1 a2 b2 c2 d2 : Word,
        a1 = S.get a + S.get b ∧ d1 = (S.get d ^^^ a1).rotateLeft 16 ∧
        c1 = S.get c + d1 ∧ b1 = (S.get b ^^^ c1).rotateLeft 12 ∧
        a2 = a1 + b1 ∧ d2 = (d1 ^^^ a2).rotateLeft 8 ∧
        c2 = c1 + d2 ∧ b2 = (b1 ^^^ c2).rotateLeft 7 ∧
        R.get a = a2 ∧ R.get b = b2 ∧ R.get c = c2 ∧ R.get d = d2) ∧
      (∀ j : Fin 16, j ≠ a → j ≠ b → j ≠ c → j ≠ d → R.get j = S.get j)) ∧
  (∀ (S : ChaChaState) (a b c d : Nat) (s : State),
    ¬ ((a < 16 ∧ b < 16 ∧ c < 16 ∧ d < 16) ∧ [a, b, c, d].Nodup) →
    exec (.quarterRound S a b c d) s = .refused .indicesOutsideContract)

/-- R105: a column round mixes each column by itself, and the order of the four groups does not change the result. The result is
left in `opResult` (log 11) and nothing else changes. -/
def Obligations.ColumnRoundMixesEachColumn : Prop :=
  ∀ (S : ChaChaState) (s : State), ∃ R : ChaChaState,
    exec (.columnRound S) s = .next { s with opResult := some (.state R) } ∧
    R = quarterRound (quarterRound (quarterRound (quarterRound S ⟨0, 4, 8, 12⟩) ⟨1, 5, 9, 13⟩) ⟨2, 6, 10, 14⟩) ⟨3, 7, 11, 15⟩ ∧
    (∀ g ∈ [(⟨0, 4, 8, 12⟩ : IndexGroup), ⟨1, 5, 9, 13⟩, ⟨2, 6, 10, 14⟩, ⟨3, 7, 11, 15⟩],
      readGroup R g = quarterWords (readGroup S g)) ∧
    (∀ gs : List IndexGroup, gs.Perm [⟨0, 4, 8, 12⟩, ⟨1, 5, 9, 13⟩, ⟨2, 6, 10, 14⟩, ⟨3, 7, 11, 15⟩] →
      gs.foldl quarterRound S = R)

/-- R106: a diagonal round mixes each diagonal by itself. The result is left in `opResult` (log 11) and nothing else changes. -/
def Obligations.DiagonalRoundMixesEachDiagonal : Prop :=
  ∀ (S : ChaChaState) (s : State), ∃ R : ChaChaState,
    exec (.diagonalRound S) s = .next { s with opResult := some (.state R) } ∧
    R = quarterRound (quarterRound (quarterRound (quarterRound S ⟨0, 5, 10, 15⟩) ⟨1, 6, 11, 12⟩) ⟨2, 7, 8, 13⟩) ⟨3, 4, 9, 14⟩ ∧
    (∀ g ∈ [(⟨0, 5, 10, 15⟩ : IndexGroup), ⟨1, 6, 11, 12⟩, ⟨2, 7, 8, 13⟩, ⟨3, 4, 9, 14⟩],
      readGroup R g = quarterWords (readGroup S g))

/-- R107 and R77: a double round is the eight quarter rounds in strict sequence, a column round and then a diagonal round; it fixes
0^512. The result is left in `opResult` (log 11) and nothing else changes. -/
def Obligations.DoubleRoundIsColumnThenDiagonal : Prop :=
  ∀ (S : ChaChaState) (s : State), ∃ R : ChaChaState,
    exec (.doubleRound S) s = .next { s with opResult := some (.state R) } ∧
    R = [(⟨0, 4, 8, 12⟩ : IndexGroup), ⟨1, 5, 9, 13⟩, ⟨2, 6, 10, 14⟩, ⟨3, 7, 11, 15⟩,
         ⟨0, 5, 10, 15⟩, ⟨1, 6, 11, 12⟩, ⟨2, 7, 8, 13⟩, ⟨3, 4, 9, 14⟩].foldl quarterRound S ∧
    R = diagonalRound (columnRound S) ∧ (S = zeroState → R = zeroState)

/-- R108: sixteen additions that do not carry into each other; commutative, and 0^512 is its identity. The result is left in
`opResult` (log 11) and nothing else changes. -/
def Obligations.RoundsFinishAddsWordByWord : Prop :=
  ∀ (m o : ChaChaState) (s : State), ∃ R : ChaChaState,
    exec (.roundsFinish m o) s = .next { s with opResult := some (.state R) } ∧
    (∀ i : Fin 16, (R.get i).toNat = ((m.get i).toNat + (o.get i).toNat) % 2 ^ 32) ∧
    exec (.roundsFinish o m) s = exec (.roundsFinish m o) s ∧ (o = zeroState → R = m)

/-- R109: a stage is `rounds_per_cycle / 2` double rounds, at least one, each taking the output of the one before; it fixes 0^512.
The result is left in `opResult` (log 11) and nothing else changes. -/
def Obligations.StagePipeChainsItsDoubleRounds : Prop :=
  ∀ (X : ChaChaState) (s : State), ∃ R : ChaChaState,
    exec (.stagePipe X) s = .next { s with opResult := some (.state R) } ∧
    R = doubleRound^[s.cfg.roundsPerCycle / 2] X ∧ 0 < s.cfg.roundsPerCycle / 2 ∧ (X = zeroState → R = zeroState)

/-- R110: T stages are n single rounds, whatever `rounds_per_cycle` is. -/
def Obligations.StagesComposeToTheRoundCount : Prop :=
  ∀ (c : Config) (S : ChaChaState),
    (stagePipe c)^[c.totalStages] S = doubleRound^[c.totalStages * c.unitsPerStage] S ∧
    (stagePipe c)^[c.totalStages] S = doubleRound^[c.nRounds / 2] S

/-- R111: the reference permutation for 8, 12 and 20 rounds; it fixes 0^512. The result is left in `opResult` (log 11) and nothing
else changes. -/
def Obligations.ChaChaPermuteIsRoundsThenFinish : Prop :=
  (∀ (S : ChaChaState) (s : State),
    exec (.chachaPermute S .r8) s = .next { s with opResult := some (.state (roundsFinish (doubleRound^[4] S) S)) } ∧
    exec (.chachaPermute S .r12) s = .next { s with opResult := some (.state (roundsFinish (doubleRound^[6] S) S)) } ∧
    exec (.chachaPermute S .r20) s = .next { s with opResult := some (.state (roundsFinish (doubleRound^[10] S) S)) }) ∧
  (∀ n : Nat, chachaPermute zeroState n = zeroState)

/-- R112: an operator writes no register and keeps nothing between cycles; with its operands and the configuration fixed, its
result does not depend on the state. -/
def Obligations.OperatorsArePure : Prop :=
  ∀ (i : Instr) (s t : State), i.isCycleAction = false → exec i s = .next t →
    t = { s with opResult := t.opResult } ∧
    ∀ s' : State, s'.cfg = s.cfg → exec i s' = .next { s' with opResult := t.opResult }
end

