-- ==== Sys2Proof/Laws/Config.lean ====
section
/-! SUPPORT. Arithmetic of a legal configuration (spec/10_state.md R21). -/

namespace Sys2Proof

/-- `T` stages of `rounds_per_cycle` single rounds are `n` single rounds. -/
theorem Config.totalStages_mul_roundsPerCycle (c : Config) : c.totalStages * c.roundsPerCycle = c.nRounds := by
  obtain ⟨_, _, hdvd, _⟩ := c.legal
  exact Nat.div_mul_cancel (Nat.dvd_of_mod_eq_zero hdvd)

/-- A double round is two single rounds. -/
theorem Config.unitsPerStage_mul_two (c : Config) : c.unitsPerStage * 2 = c.roundsPerCycle := by
  obtain ⟨_, _, _, heven⟩ := c.legal
  exact Nat.div_mul_cancel (Nat.dvd_of_mod_eq_zero heven)

/-- A stage is never empty. -/
theorem Config.unitsPerStage_pos (c : Config) : 0 < c.unitsPerStage := by
  have h := c.unitsPerStage_mul_two
  have := c.legal.2.1.2
  omega

end Sys2Proof
end

