-- ==== Sys2Proof/Laws/Decode.lean ====
section
/-! SUPPORT. The packed state, word by word (spec/30_encoding.md R71). -/

namespace Sys2Proof

/-- The words of a state, least significant first. -/
def stateDigits (S : ChaChaState) : List Nat := (S.toList.map BitVec.toNat).reverse

/-- Each of them is below `2^32`. -/
theorem stateDigits_lt (S : ChaChaState) : ∀ d ∈ stateDigits S, d < 4294967296 := by
  intro d hd
  obtain ⟨w, -, rfl⟩ := List.mem_map.mp (List.mem_reverse.mp hd)
  exact w.isLt

/-- A word is a digit in base `2^32`. -/
theorem two_pow_mul_32 (k : Nat) : 2 ^ (k * 32) = 4294967296 ^ k := by
  rw [Nat.mul_comm, pow_mul]; norm_num

theorem state_toList (S : ChaChaState) : S.toList = (List.finRange 16).map fun i => S.get i := by
  apply List.ext_getElem <;> simp [Vector.get_eq_getElem]

/-- A sum of digits times powers of the base is the number with those digits. -/
theorem sum_eq_ofDigits : ∀ (n : Nat) (f : Fin n → Nat),
    ((List.finRange n).map fun i => f i * 4294967296 ^ (n - 1 - i.val)).sum =
      Nat.ofDigits 4294967296 (((List.finRange n).map f).reverse) := by
  intro n
  induction n with
  | zero => intro f; rfl
  | succ n ih =>
    intro f
    have hs : ∀ i : Fin n, n + 1 - 1 - (Fin.succ i).val = n - 1 - i.val := by intro i; simp; omega
    rw [List.finRange_succ]
    simp only [List.map_cons, List.sum_cons, List.map_map, List.reverse_cons, Nat.ofDigits_append, Function.comp_def, hs,
      ih, List.length_reverse, List.length_map, List.length_finRange, Fin.val_zero, Nat.ofDigits_singleton]
    rw [Nat.add_sub_cancel, Nat.sub_zero, Nat.add_comm, Nat.mul_comm (f 0)]

/-- The packed value has the words as its digits (R71). -/
theorem packState_toNat (S : ChaChaState) : (packState S).toNat = Nat.ofDigits 4294967296 (stateDigits S) := by
  have hlen : (stateDigits S).length = 16 := by simp [stateDigits]
  have hlt := Nat.ofDigits_lt_base_pow_length (by norm_num) (stateDigits_lt S)
  rw [hlen] at hlt
  have hsum := sum_eq_ofDigits 16 (fun i => (S.get i).toNat)
  rw [packState, BitVec.toNat_ofNat, show (512 : Nat) = 16 * 32 from rfl]
  simp only [two_pow_mul_32]
  rw [show (16 : Nat) - 1 = 15 from rfl] at hsum
  rw [hsum]
  have : ((List.finRange 16).map fun i => (S.get i).toNat).reverse = stateDigits S := by
    rw [stateDigits, state_toList, List.map_map]; rfl
  rw [this]
  exact Nat.mod_eq_of_lt hlt

/-- Word `i` of the packed value is `v[(15-i)*32+31 : (15-i)*32]` (R71). -/
theorem packState_word (S : ChaChaState) (i : Fin 16) :
    (packState S).toNat / 2 ^ ((15 - i.val) * 32) % 2 ^ 32 = (S.get i).toNat := by
  have hlen : 15 - i.val < (stateDigits S).length := by simp [stateDigits]; omega
  have hget : (stateDigits S)[15 - i.val] = (S.get i).toNat := by
    simp [stateDigits, Vector.get_eq_getElem]
    congr; omega
  rw [packState_toNat, two_pow_mul_32, Nat.ofDigits_div_pow_eq_ofDigits_drop _ (by norm_num) _ (stateDigits_lt S),
    List.drop_eq_getElem_cons hlen, Nat.ofDigits_cons, hget, show (2 : Nat) ^ 32 = 4294967296 by norm_num,
    Nat.add_mul_mod_self_left]
  exact Nat.mod_eq_of_lt (S.get i).isLt

/-- One word of an unpacked value (R71). -/
theorem unpackState_get (v : BitVec 512) (i : Fin 16) : (unpackState v).get i = v.extractLsb' ((15 - i.val) * 32) 32 := by
  rw [unpackState, Vector.get_eq_getElem, Vector.getElem_ofFn]

end Sys2Proof
end

