-- ==== Sys2Proof/Laws/PerInstr.lean ====
section
/-! SUPPORT. The family of facts about every instruction as syntax: one lemma per constructor. -/

namespace Sys2Proof.Laws.Encodable

/-- An instruction has an encoding exactly when it is a cycle action, and then it is well-formed (30_encoding R73, R74). -/
def Statement (i : Instr) : Prop :=
  (encode i).isSome = i.isCycleAction ∧ (i.isCycleAction = true → i.wellFormed = true)

theorem reset (enabled : Bool) (stateIn : ChaChaState) : Statement (.reset enabled stateIn) := ⟨rfl, fun _ => rfl⟩
theorem idle (stateIn : ChaChaState) : Statement (.idle stateIn) := ⟨rfl, fun _ => rfl⟩
theorem step (stateIn : ChaChaState) : Statement (.step stateIn) := ⟨rfl, fun _ => rfl⟩
theorem add32 (x y : Word) : Statement (.add32 x y) := ⟨rfl, fun _ => rfl⟩
theorem xor32 (x y : Word) : Statement (.xor32 x y) := ⟨rfl, fun _ => rfl⟩
theorem rotl32 (x : Word) (k : Nat) : Statement (.rotl32 x k) := ⟨rfl, fun h => Bool.noConfusion h⟩
theorem quarterRound (S : ChaChaState) (a b c d : Nat) : Statement (.quarterRound S a b c d) :=
  ⟨rfl, fun h => Bool.noConfusion h⟩
theorem columnRound (S : ChaChaState) : Statement (.columnRound S) := ⟨rfl, fun _ => rfl⟩
theorem diagonalRound (S : ChaChaState) : Statement (.diagonalRound S) := ⟨rfl, fun _ => rfl⟩
theorem doubleRound (S : ChaChaState) : Statement (.doubleRound S) := ⟨rfl, fun _ => rfl⟩
theorem roundsFinish (mixed original : ChaChaState) : Statement (.roundsFinish mixed original) := ⟨rfl, fun _ => rfl⟩
theorem stagePipe (X : ChaChaState) : Statement (.stagePipe X) := ⟨rfl, fun _ => rfl⟩
theorem chachaPermute (S : ChaChaState) (n : RoundCount) : Statement (.chachaPermute S n) := ⟨rfl, fun _ => rfl⟩

end Sys2Proof.Laws.Encodable
end

