-- ==== Sys2Proof/Laws/Primitives.lean ====
section
/-! SUPPORT. What each function of the datapath does to one word of a state. -/

namespace Sys2Proof.Machine

/-- Two states are equal when all their words are. -/
theorem state_ext {S R : ChaChaState} (h : ∀ i : Fin 16, S.get i = R.get i) : S = R :=
  Vector.ext fun i hi => h ⟨i, hi⟩

@[simp] theorem zeroState_get (i : Fin 16) : zeroState.get i = 0 := by
  simp [zeroState, Vector.get]

/-- Reading a word of a state with one word set. -/
theorem setWord_get (S : ChaChaState) (i j : Fin 16) (v : Word) :
    (setWord S i v).get j = if j = i then v else S.get j := by
  simp only [setWord, Vector.get_eq_getElem, Vector.getElem_set, Fin.ext_iff, eq_comm]

@[simp] theorem readGroup_a (S : ChaChaState) (g : IndexGroup) : (readGroup S g).a = S.get g.a := rfl
@[simp] theorem readGroup_b (S : ChaChaState) (g : IndexGroup) : (readGroup S g).b = S.get g.b := rfl
@[simp] theorem readGroup_c (S : ChaChaState) (g : IndexGroup) : (readGroup S g).c = S.get g.c := rfl
@[simp] theorem readGroup_d (S : ChaChaState) (g : IndexGroup) : (readGroup S g).d = S.get g.d := rfl

/-- A quarter round leaves the words outside its group alone (R103). -/
theorem quarterRound_get_of_ne (S : ChaChaState) (g : IndexGroup) (j : Fin 16)
    (ha : j ≠ g.a) (hb : j ≠ g.b) (hc : j ≠ g.c) (hd : j ≠ g.d) : (quarterRound S g).get j = S.get j := by
  simp [quarterRound, writeGroup, setWord_get, ha, hb, hc, hd]

/-- The words of a group that has just been written (R103). -/
theorem readGroup_quarterRound (S : ChaChaState) (g : IndexGroup) (hab : g.a ≠ g.b) (hac : g.a ≠ g.c) (had : g.a ≠ g.d)
    (hbc : g.b ≠ g.c) (hbd : g.b ≠ g.d) (hcd : g.c ≠ g.d) :
    readGroup (quarterRound S g) g = quarterWords (readGroup S g) := by
  simp [readGroup, quarterRound, writeGroup, setWord_get, hab, hac, had, hbc, hbd, hcd]

/-- A quarter round does not disturb a group it shares no word with. -/
theorem readGroup_quarterRound_of_disjoint (S : ChaChaState) (g h : IndexGroup)
    (hdisj : ∀ i ∈ [h.a, h.b, h.c, h.d], i ≠ g.a ∧ i ≠ g.b ∧ i ≠ g.c ∧ i ≠ g.d) :
    readGroup (quarterRound S g) h = readGroup S h := by
  simp only [List.mem_cons, List.not_mem_nil, or_false, forall_eq_or_imp, forall_eq] at hdisj
  obtain ⟨⟨a1, a2, a3, a4⟩, ⟨b1, b2, b3, b4⟩, ⟨c1, c2, c3, c4⟩, ⟨d1, d2, d3, d4⟩⟩ := hdisj
  simp only [readGroup, quarterRound_get_of_ne _ _ _ a1 a2 a3 a4, quarterRound_get_of_ne _ _ _ b1 b2 b3 b4,
    quarterRound_get_of_ne _ _ _ c1 c2 c3 c4, quarterRound_get_of_ne _ _ _ d1 d2 d3 d4]

/-- One word of RoundsFinish (R108). -/
@[simp] theorem roundsFinish_get (m o : ChaChaState) (i : Fin 16) :
    (roundsFinish m o).get i = add32 (m.get i) (o.get i) := by
  simp [roundsFinish, Vector.get_eq_getElem]

@[simp] theorem doubleRounds_zero (S : ChaChaState) : doubleRounds 0 S = S := rfl

theorem doubleRounds_add (j k : Nat) (S : ChaChaState) : doubleRounds (j + k) S = doubleRounds j (doubleRounds k S) :=
  Function.iterate_add_apply doubleRound j k S

/-- Stages compose by adding their double rounds. -/
theorem stagePipe_iterate (c : Config) (k : Nat) (S : ChaChaState) :
    (stagePipe c)^[k] S = doubleRounds (k * c.unitsPerStage) S := by
  have h : stagePipe c = doubleRound^[c.unitsPerStage] := rfl
  rw [h, ← Function.iterate_mul, Nat.mul_comm]
  rfl

end Sys2Proof.Machine
end

