-- ==== Sys2Proof/Laws/State.lean ====
section
/-! SUPPORT. One lemma per field per update of State, so that no later proof unfolds a record update. -/

namespace Sys2Proof.Machine

@[simp] theorem clearRegisters_cfg (s : State) : (clearRegisters s).cfg = s.cfg := rfl
@[simp] theorem clearRegisters_ctr (s : State) : (clearRegisters s).ctr = 0 := rfl
@[simp] theorem clearRegisters_inter (s : State) : (clearRegisters s).inter = zeroState := rfl
@[simp] theorem clearRegisters_prev (s : State) : (clearRegisters s).prev = zeroState := rfl
@[simp] theorem clearRegisters_pending (s : State) : (clearRegisters s).pending = s.pending := rfl
@[simp] theorem clearRegisters_cycle (s : State) : (clearRegisters s).cycle = s.cycle := rfl
@[simp] theorem clearRegisters_lastOut (s : State) : (clearRegisters s).lastOut = s.lastOut := rfl
@[simp] theorem clearRegisters_opResult (s : State) : (clearRegisters s).opResult = s.opResult := rfl

@[simp] theorem stepRegisters_cfg (s : State) (x : ChaChaState) :
    (stepRegisters s x).cfg = s.cfg := rfl
@[simp] theorem stepRegisters_ctr (s : State) (x : ChaChaState) :
    (stepRegisters s x).ctr = if atLastStage s then s.ctr else s.ctr + 1 := rfl
@[simp] theorem stepRegisters_inter (s : State) (x : ChaChaState) :
    (stepRegisters s x).inter = if atLastStage s then s.inter else pipelineOut s x := rfl
@[simp] theorem stepRegisters_prev (s : State) (x : ChaChaState) :
    (stepRegisters s x).prev = if s.ctr = 0 then x else s.prev := rfl
@[simp] theorem stepRegisters_pending (s : State) (x : ChaChaState) :
    (stepRegisters s x).pending = s.pending := rfl
@[simp] theorem stepRegisters_cycle (s : State) (x : ChaChaState) :
    (stepRegisters s x).cycle = s.cycle := rfl
@[simp] theorem stepRegisters_lastOut (s : State) (x : ChaChaState) :
    (stepRegisters s x).lastOut = s.lastOut := rfl
@[simp] theorem stepRegisters_opResult (s : State) (x : ChaChaState) :
    (stepRegisters s x).opResult = s.opResult := rfl

@[simp] theorem recordOutputs_cfg (b a : State) (rst : Bool) (x : ChaChaState) :
    (recordOutputs b a rst x).cfg = a.cfg := rfl
@[simp] theorem recordOutputs_ctr (b a : State) (rst : Bool) (x : ChaChaState) :
    (recordOutputs b a rst x).ctr = a.ctr := rfl
@[simp] theorem recordOutputs_inter (b a : State) (rst : Bool) (x : ChaChaState) :
    (recordOutputs b a rst x).inter = a.inter := rfl
@[simp] theorem recordOutputs_prev (b a : State) (rst : Bool) (x : ChaChaState) :
    (recordOutputs b a rst x).prev = a.prev := rfl
@[simp] theorem recordOutputs_pending (b a : State) (rst : Bool) (x : ChaChaState) :
    (recordOutputs b a rst x).pending = a.pending := rfl
@[simp] theorem recordOutputs_cycle (b a : State) (rst : Bool) (x : ChaChaState) :
    (recordOutputs b a rst x).cycle = a.cycle := rfl
@[simp] theorem recordOutputs_lastOut (b a : State) (rst : Bool) (x : ChaChaState) :
    (recordOutputs b a rst x).lastOut = some (cycleOutputs b rst x) := rfl
@[simp] theorem recordOutputs_opResult (b a : State) (rst : Bool) (x : ChaChaState) :
    (recordOutputs b a rst x).opResult = a.opResult := rfl

@[simp] theorem withOpResult_cfg (s : State) (v : OpValue) : (withOpResult s v).cfg = s.cfg := rfl
@[simp] theorem withOpResult_ctr (s : State) (v : OpValue) : (withOpResult s v).ctr = s.ctr := rfl
@[simp] theorem withOpResult_inter (s : State) (v : OpValue) : (withOpResult s v).inter = s.inter := rfl
@[simp] theorem withOpResult_prev (s : State) (v : OpValue) : (withOpResult s v).prev = s.prev := rfl
@[simp] theorem withOpResult_pending (s : State) (v : OpValue) : (withOpResult s v).pending = s.pending := rfl
@[simp] theorem withOpResult_cycle (s : State) (v : OpValue) : (withOpResult s v).cycle = s.cycle := rfl
@[simp] theorem withOpResult_lastOut (s : State) (v : OpValue) : (withOpResult s v).lastOut = s.lastOut := rfl
@[simp] theorem withOpResult_opResult (s : State) (v : OpValue) : (withOpResult s v).opResult = some v := rfl

@[simp] theorem consumeInput_cfg (s : State) : (consumeInput s).cfg = s.cfg := rfl
@[simp] theorem consumeInput_ctr (s : State) : (consumeInput s).ctr = s.ctr := rfl
@[simp] theorem consumeInput_inter (s : State) : (consumeInput s).inter = s.inter := rfl
@[simp] theorem consumeInput_prev (s : State) : (consumeInput s).prev = s.prev := rfl
@[simp] theorem consumeInput_pending (s : State) : (consumeInput s).pending = s.pending.tail := rfl
@[simp] theorem consumeInput_cycle (s : State) : (consumeInput s).cycle = s.cycle + 1 := rfl
@[simp] theorem consumeInput_lastOut (s : State) : (consumeInput s).lastOut = s.lastOut := rfl
@[simp] theorem consumeInput_opResult (s : State) : (consumeInput s).opResult = s.opResult := rfl

@[simp] theorem presentInput_cfg (s : State) (p : CycleInput) : (presentInput s p).cfg = s.cfg := rfl
@[simp] theorem presentInput_ctr (s : State) (p : CycleInput) : (presentInput s p).ctr = s.ctr := rfl
@[simp] theorem presentInput_inter (s : State) (p : CycleInput) :
    (presentInput s p).inter = s.inter := rfl
@[simp] theorem presentInput_prev (s : State) (p : CycleInput) : (presentInput s p).prev = s.prev := rfl
@[simp] theorem presentInput_pending (s : State) (p : CycleInput) :
    (presentInput s p).pending = p :: s.pending.tail := rfl
@[simp] theorem presentInput_cycle (s : State) (p : CycleInput) :
    (presentInput s p).cycle = s.cycle := rfl
@[simp] theorem presentInput_lastOut (s : State) (p : CycleInput) :
    (presentInput s p).lastOut = s.lastOut := rfl
@[simp] theorem presentInput_opResult (s : State) (p : CycleInput) :
    (presentInput s p).opResult = s.opResult := rfl

@[simp] theorem State.drivenBy_cfg (s : State) (ins : List CycleInput) :
    (s.drivenBy ins).cfg = s.cfg := rfl
@[simp] theorem State.drivenBy_ctr (s : State) (ins : List CycleInput) :
    (s.drivenBy ins).ctr = s.ctr := rfl
@[simp] theorem State.drivenBy_inter (s : State) (ins : List CycleInput) :
    (s.drivenBy ins).inter = s.inter := rfl
@[simp] theorem State.drivenBy_prev (s : State) (ins : List CycleInput) :
    (s.drivenBy ins).prev = s.prev := rfl
@[simp] theorem State.drivenBy_pending (s : State) (ins : List CycleInput) :
    (s.drivenBy ins).pending = ins := rfl
@[simp] theorem State.drivenBy_cycle (s : State) (ins : List CycleInput) :
    (s.drivenBy ins).cycle = s.cycle := rfl
@[simp] theorem State.drivenBy_lastOut (s : State) (ins : List CycleInput) :
    (s.drivenBy ins).lastOut = s.lastOut := rfl
@[simp] theorem State.drivenBy_opResult (s : State) (ins : List CycleInput) :
    (s.drivenBy ins).opResult = s.opResult := rfl

@[simp] theorem State.powerOn_cfg (c : Config) : (State.powerOn c).cfg = c := rfl
@[simp] theorem State.powerOn_ctr (c : Config) : (State.powerOn c).ctr = 0 := rfl
@[simp] theorem State.powerOn_inter (c : Config) : (State.powerOn c).inter = zeroState := rfl
@[simp] theorem State.powerOn_prev (c : Config) : (State.powerOn c).prev = zeroState := rfl
@[simp] theorem State.powerOn_pending (c : Config) : (State.powerOn c).pending = [] := rfl
@[simp] theorem State.powerOn_cycle (c : Config) : (State.powerOn c).cycle = 0 := rfl
@[simp] theorem State.powerOn_lastOut (c : Config) : (State.powerOn c).lastOut = none := rfl
@[simp] theorem State.powerOn_opResult (c : Config) : (State.powerOn c).opResult = none := rfl

@[simp] theorem State.regs_ctr (s : State) : s.regs.ctr = s.ctr := rfl
@[simp] theorem State.regs_inter (s : State) : s.regs.inter = s.inter := rfl
@[simp] theorem State.regs_prev (s : State) : s.regs.prev = s.prev := rfl

/-- The counter is always in range (R25). -/
theorem State.ctr_lt (s : State) : s.ctr < s.cfg.totalStages := s.regs.inRange

@[simp] theorem Regs.triple_mk {n ctr : Nat} (inter prev : ChaChaState) (h : ctr < n) :
    (⟨ctr, inter, prev, h⟩ : Regs n).triple = (ctr, inter, prev) := rfl
@[simp] theorem Regs.reset_triple (cfg : Config) : (Regs.reset cfg).triple = (0, zeroState, zeroState) := rfl

/-- Registers of engines with the same number of stages are equal exactly when their values are. -/
theorem Regs.triple_inj {n : Nat} {r r' : Regs n} : r.triple = r'.triple ↔ r = r' := by
  obtain ⟨ctr, inter, prev, h⟩ := r
  obtain ⟨ctr', inter', prev', h'⟩ := r'
  simp

theorem State.triple_eq (s : State) : s.triple = (s.ctr, s.inter, s.prev) := rfl

/-- Two states have the same register values exactly when all three agree. -/
theorem State.triple_eq_iff (s t : State) : s.triple = t.triple ↔ s.ctr = t.ctr ∧ s.inter = t.inter ∧ s.prev = t.prev := by
  simp [State.triple_eq]

/-- Two states are equal when the values of all their parts are; the registers are compared by value. -/
theorem State.eq_of_parts {s t : State} (hcfg : s.cfg = t.cfg) (htriple : s.triple = t.triple) (hpending : s.pending = t.pending)
    (hcycle : s.cycle = t.cycle) (hlast : s.lastOut = t.lastOut) (hop : s.opResult = t.opResult) : s = t := by
  obtain ⟨cfg, regs, pending, cycle, lastOut, opResult⟩ := s
  obtain ⟨cfg', regs', pending', cycle', lastOut', opResult'⟩ := t
  subst hcfg hpending hcycle hlast hop
  obtain rfl : regs = regs' := Regs.triple_inj.mp htriple
  rfl

end Sys2Proof.Machine
end

