-- ==== Sys2Proof/Laws/Step.lean ====
section
/-! SUPPORT. What the pipeline, the outputs, an instruction and a step can do, said once each. -/

namespace Sys2Proof.Machine

theorem pipelineIn_start {s : State} (h : s.ctr = 0) (x : ChaChaState) : pipelineIn s x = x := by
  simp [pipelineIn, h]

theorem pipelineIn_later {s : State} (h : s.ctr ≠ 0) (x : ChaChaState) : pipelineIn s x = s.inter := by
  simp [pipelineIn, h]

theorem atLastStage_iff (s : State) : atLastStage s = true ↔ s.ctr = s.cfg.totalStages - 1 := by
  simp [atLastStage]

theorem stateOut_of_done {s : State} (h : doneFlag s = true) (x : ChaChaState) :
    stateOut s x = roundsFinish (pipelineOut s x) s.prev := by
  simp [stateOut, h]

theorem stateOut_of_not_done {s : State} (h : doneFlag s = false) (x : ChaChaState) : stateOut s x = zeroState := by
  simp [stateOut, h]

/-- Outside a reset cycle, and under a synchronous reset always, the outputs are those of the registers before the edge. -/
theorem cycleOutputs_of_shows {s : State} {rst : Bool} (h : rst = false ∨ s.cfg.resetStyle = .synchronous)
    (x : ChaChaState) : cycleOutputs s rst x = ⟨doneFlag s, stateOut s x⟩ := by
  have : outputRegisters s rst = s := by
    rcases h with h | h <;> simp [outputRegisters, h]
  simp [cycleOutputs, this]

/-- The reset cycle of an engine with an asynchronous reset shows the reset state (R230). -/
theorem cycleOutputs_asynchronous {s : State} (h : s.cfg.resetStyle = .asynchronous) (x : ChaChaState) :
    cycleOutputs s true x = ⟨doneFlag (clearRegisters s), stateOut (clearRegisters s) x⟩ := by
  simp [cycleOutputs, outputRegisters, h]

/-- The end of a cycle that began in `s` with the inputs `p`: the action's register writes, the outputs recorded. -/
def cycleEnd (s : State) (p : CycleInput) : State :=
  recordOutputs s
    (if p.rst then clearRegisters s else if p.enabled then stepRegisters s p.stateIn else s) p.rst p.stateIn

/-- The outputs of a cycle read the configuration and the registers, and nothing else of the state (R140). -/
theorem cycleOutputs_congr {s s' : State} (hcfg : s.cfg = s'.cfg) (hregs : s.triple = s'.triple) (rst : Bool)
    (x : ChaChaState) : cycleOutputs s rst x = cycleOutputs s' rst x := by
  obtain ⟨hctr, hinter, hprev⟩ := (State.triple_eq_iff s s').mp hregs
  have hstate : ∀ u u' : State, u.cfg = u'.cfg → u.ctr = u'.ctr → u.inter = u'.inter → u.prev = u'.prev →
      doneFlag u = doneFlag u' ∧ stateOut u x = stateOut u' x := by
    intro u u' h1 h2 h3 h4
    simp [doneFlag, stateOut, atLastStage, pipelineOut, pipelineIn, h1, h2, h3, h4]
  by_cases h : rst = true ∧ s'.cfg.resetStyle = .asynchronous
  · simp [cycleOutputs, outputRegisters, hcfg, h, hstate (clearRegisters s) (clearRegisters s') hcfg rfl rfl rfl]
  · have hsame : (rst && decide (s'.cfg.resetStyle = .asynchronous)) = false := by simpa using h
    simp [cycleOutputs, outputRegisters, hcfg, hsame, hstate s s' hcfg hctr hinter hprev]

@[simp] theorem nextRegs_reset (cfg : Config) (r : Regs cfg.totalStages) (enabled : Bool) (x : ChaChaState) :
    nextRegs cfg r ⟨true, enabled, x⟩ = Regs.reset cfg := rfl

@[simp] theorem nextRegs_idle (cfg : Config) (r : Regs cfg.totalStages) (x : ChaChaState) :
    nextRegs cfg r ⟨false, false, x⟩ = r := rfl

@[simp] theorem nextRegs_step_ctr (cfg : Config) (r : Regs cfg.totalStages) (x : ChaChaState) :
    (nextRegs cfg r ⟨false, true, x⟩).ctr = if r.ctr = cfg.totalStages - 1 then r.ctr else r.ctr + 1 := by
  by_cases h : r.ctr = cfg.totalStages - 1 <;> simp [nextRegs, h]

@[simp] theorem nextRegs_step_inter (cfg : Config) (r : Regs cfg.totalStages) (x : ChaChaState) :
    (nextRegs cfg r ⟨false, true, x⟩).inter =
      if r.ctr = cfg.totalStages - 1 then r.inter else stagePipe cfg (if r.ctr = 0 then x else r.inter) := by
  by_cases h : r.ctr = cfg.totalStages - 1 <;> simp [nextRegs, h]

@[simp] theorem nextRegs_step_prev (cfg : Config) (r : Regs cfg.totalStages) (x : ChaChaState) :
    (nextRegs cfg r ⟨false, true, x⟩).prev = if r.ctr = 0 then x else r.prev := by
  by_cases h : r.ctr = cfg.totalStages - 1 <;> simp [nextRegs, h]

/-- What STEP does to the registers, in one equation (R149, R151). -/
theorem nextRegs_step_triple (cfg : Config) (r : Regs cfg.totalStages) (x : ChaChaState) :
    (nextRegs cfg r ⟨false, true, x⟩).triple =
      (if r.ctr = cfg.totalStages - 1 then r.ctr else r.ctr + 1,
       if r.ctr = cfg.totalStages - 1 then r.inter else stagePipe cfg (if r.ctr = 0 then x else r.inter),
       if r.ctr = 0 then x else r.prev) := by
  rw [Regs.triple, nextRegs_step_ctr, nextRegs_step_inter, nextRegs_step_prev]

/-- The action that CTL selects, in terms of the two inputs (R146). -/
theorem decodeCtl_ctl (p : CycleInput) :
    decodeCtl p.ctl = if p.rst then .reset else if p.enabled then .step else .idle := by
  have h : ∀ rst enabled : Bool, decodeCtl (BitVec.ofBool rst ++ BitVec.ofBool enabled) =
      if rst then .reset else if enabled then .step else .idle := by decide
  exact h p.rst p.enabled

/-- The decoded action of a cycle is what the two control inputs say (R146). -/
theorem decodeCycle_eq (p : CycleInput) :
    decodeCycle p = if p.rst then .reset p.enabled p.stateIn else if p.enabled then .step p.stateIn else .idle p.stateIn := by
  simp only [decodeCycle, decodeCtl_ctl]
  cases p.rst <;> cases p.enabled <;> rfl

/-- What a decoded action does. -/
theorem exec_decodeCycle (s : State) (p : CycleInput) : exec (decodeCycle p) s = .next (cycleEnd s p) := by
  rw [decodeCycle_eq]
  obtain ⟨rst, enabled, x⟩ := p
  cases rst <;> cases enabled <;> rfl

/-- What a step does: it ends the cycle that the current inputs select. -/
theorem step_eq (s : State) : step s = .next (cycleEnd (consumeInput s) (currentInput s)) :=
  exec_decodeCycle _ _

@[simp] theorem currentInput_drivenBy_cons (s : State) (p : CycleInput) (ins : List CycleInput) :
    currentInput (s.drivenBy (p :: ins)) = p := rfl

@[simp] theorem currentInput_presentInput (s : State) (p : CycleInput) : currentInput (presentInput s p) = p := rfl

/-- Everything an instruction can do when it answers a next state: one of the three cycle actions, or an operator, which
changes `opResult` alone. -/
theorem exec_next_cases {i : Instr} {s t : State} (h : exec i s = .next t) :
    (∃ e x, i = .reset e x ∧ t = recordOutputs s (clearRegisters s) true x) ∨
    (∃ x, i = .idle x ∧ t = recordOutputs s s false x) ∨
    (∃ x, i = .step x ∧ t = recordOutputs s (stepRegisters s x) false x) ∨
    (i.isCycleAction = false ∧ ∃ v, t = withOpResult s v) := by
  cases i with
  | reset e x => exact .inl ⟨e, x, rfl, (Host.Outcome.next.inj h).symm⟩
  | idle x => exact .inr (.inl ⟨x, rfl, (Host.Outcome.next.inj h).symm⟩)
  | step x => exact .inr (.inr (.inl ⟨x, rfl, (Host.Outcome.next.inj h).symm⟩))
  | rotl32 x k =>
    simp only [exec, execRotl32] at h
    split at h
    · exact .inr (.inr (.inr ⟨rfl, _, (Host.Outcome.next.inj h).symm⟩))
    · cases h
  | quarterRound S a b c d =>
    simp only [exec, execQuarterRound] at h
    split at h
    · exact .inr (.inr (.inr ⟨rfl, _, (Host.Outcome.next.inj h).symm⟩))
    · cases h
  | add32 _ _ => exact .inr (.inr (.inr ⟨rfl, _, (Host.Outcome.next.inj h).symm⟩))
  | xor32 _ _ => exact .inr (.inr (.inr ⟨rfl, _, (Host.Outcome.next.inj h).symm⟩))
  | columnRound _ => exact .inr (.inr (.inr ⟨rfl, _, (Host.Outcome.next.inj h).symm⟩))
  | diagonalRound _ => exact .inr (.inr (.inr ⟨rfl, _, (Host.Outcome.next.inj h).symm⟩))
  | doubleRound _ => exact .inr (.inr (.inr ⟨rfl, _, (Host.Outcome.next.inj h).symm⟩))
  | roundsFinish _ _ => exact .inr (.inr (.inr ⟨rfl, _, (Host.Outcome.next.inj h).symm⟩))
  | stagePipe _ => exact .inr (.inr (.inr ⟨rfl, _, (Host.Outcome.next.inj h).symm⟩))
  | chachaPermute _ _ => exact .inr (.inr (.inr ⟨rfl, _, (Host.Outcome.next.inj h).symm⟩))

end Sys2Proof.Machine
end

