-- ==== Sys2Proof/Laws/Run.lean ====
section
/-! SUPPORT. A run over a list of inputs, one cycle at a time. -/

namespace Sys2Proof.Machine

/-- One cycle driven with `p`, the driver left with nothing lined up. -/
def cycleWith (s : State) (p : CycleInput) : State := cycleEnd (consumeInput (s.drivenBy [p])) p

/-- The state a run over `ins` ends in. -/
def runEnd (s : State) (ins : List CycleInput) : State := ins.foldl cycleWith (s.drivenBy [])

@[simp] theorem runEnd_nil (s : State) : runEnd s [] = s.drivenBy [] := rfl

theorem runEnd_append (s : State) (ins : List CycleInput) (p : CycleInput) :
    runEnd s (ins ++ [p]) = cycleWith (runEnd s ins) p := by
  simp [runEnd]

@[simp] theorem cycleWith_drivenBy (s : State) (ins : List CycleInput) (p : CycleInput) :
    cycleWith (s.drivenBy ins) p = cycleWith s p := rfl

theorem runEnd_cons (s : State) (p : CycleInput) (ins : List CycleInput) :
    runEnd s (p :: ins) = runEnd (cycleWith s p) ins := by
  have h : ∀ q, (cycleWith s q).drivenBy [] = cycleWith s q := by
    intro ⟨rst, enabled, x⟩
    cases rst <;> cases enabled <;> rfl
  simp [runEnd, h]

/-- What the driver has lined up beyond the current input does not change the cycle. -/
theorem drivenBy_cycleEnd (s : State) (p : CycleInput) (ins : List CycleInput) :
    cycleEnd (consumeInput (s.drivenBy (p :: ins))) p = (cycleWith s p).drivenBy ins := by
  have hout : cycleOutputs (consumeInput (s.drivenBy (p :: ins))) p.rst p.stateIn =
      cycleOutputs (consumeInput (s.drivenBy [p])) p.rst p.stateIn :=
    cycleOutputs_congr (by simp) (by simp [State.triple_eq]) _ _
  simp only [cycleWith, cycleEnd, recordOutputs, hout]
  cases p.rst <;> cases p.enabled <;> rfl

/-- Every run comes to its end (R200). -/
theorem runsTo_runEnd (s : State) (ins : List CycleInput) : RunsTo s ins (runEnd s ins) := by
  induction ins generalizing s with
  | nil => rfl
  | cons p ins ih =>
    have hstep : Sys2Proof.core.step (s.drivenBy (p :: ins)) = .next ((cycleWith s p).drivenBy ins) := by
      have := step_eq (s.drivenBy (p :: ins))
      rwa [currentInput_drivenBy_cons, drivenBy_cycleEnd] at this
    rw [runEnd_cons]
    simpa only [RunsTo, List.length_cons, Host.Core.run, hstep] using ih (cycleWith s p)

theorem runsTo_iff (s : State) (ins : List CycleInput) (t : State) : RunsTo s ins t ↔ t = runEnd s ins := by
  constructor
  · intro h
    have h' := runsTo_runEnd s ins
    rw [RunsTo, h] at h'
    exact Host.Outcome.next.inj h'
  · rintro rfl
    exact runsTo_runEnd s ins

@[simp] theorem cycleWith_cfg (s : State) (p : CycleInput) : (cycleWith s p).cfg = s.cfg := by
  obtain ⟨rst, enabled, x⟩ := p
  cases rst <;> cases enabled <;> rfl

/-- The register writes of STEP are R151's next-state function. -/
theorem stepRegisters_triple (s : State) (x : ChaChaState) :
    (stepRegisters s x).triple = (nextRegs s.cfg s.regs ⟨false, true, x⟩).triple := by
  rw [nextRegs_step_triple]
  by_cases h : s.ctr = s.cfg.totalStages - 1 <;> by_cases h0 : s.ctr = 0 <;>
    simp [State.triple_eq, atLastStage, pipelineOut, pipelineIn, h, h0]

/-- The registers of a cycle are R151's next-state function of the registers before it. -/
theorem cycleWith_triple (s : State) (p : CycleInput) : (cycleWith s p).triple = (nextRegs s.cfg s.regs p).triple := by
  obtain ⟨rst, enabled, x⟩ := p
  cases rst <;> cases enabled
  · rfl
  · exact stepRegisters_triple s x
  · rfl
  · rfl

@[simp] theorem runEnd_cfg (s : State) (ins : List CycleInput) : (runEnd s ins).cfg = s.cfg := by
  induction ins generalizing s with
  | nil => rfl
  | cons p ins ih => rw [runEnd_cons, ih, cycleWith_cfg]

/-- The registers of a run are R151's next-state function over its inputs, from any registers `r` with the same values. -/
theorem runEnd_triple_of (cfg : Config) (r : Regs cfg.totalStages) (s : State) (ins : List CycleInput) (hcfg : s.cfg = cfg)
    (hr : s.triple = r.triple) : (runEnd s ins).triple = (ins.foldl (nextRegs cfg) r).triple := by
  induction ins generalizing s r with
  | nil => exact hr
  | cons p ins ih =>
    subst hcfg
    obtain rfl := Regs.triple_inj.mp hr
    rw [runEnd_cons, List.foldl_cons]
    exact ih _ _ (cycleWith_cfg s p) (cycleWith_triple s p)

/-- The registers of a run are R151's next-state function over its inputs. -/
theorem runEnd_triple (s : State) (ins : List CycleInput) :
    (runEnd s ins).triple = (ins.foldl (nextRegs s.cfg) s.regs).triple :=
  runEnd_triple_of s.cfg s.regs s ins rfl rfl

theorem cycleWith_ctr (s : State) (p : CycleInput) : (cycleWith s p).ctr = (nextRegs s.cfg s.regs p).ctr :=
  congrArg Prod.fst (cycleWith_triple s p)
theorem cycleWith_inter (s : State) (p : CycleInput) : (cycleWith s p).inter = (nextRegs s.cfg s.regs p).inter :=
  congrArg (fun r => r.2.1) (cycleWith_triple s p)
theorem cycleWith_prev (s : State) (p : CycleInput) : (cycleWith s p).prev = (nextRegs s.cfg s.regs p).prev :=
  congrArg (fun r => r.2.2) (cycleWith_triple s p)

theorem runEnd_ctr (s : State) (ins : List CycleInput) : (runEnd s ins).ctr = (ins.foldl (nextRegs s.cfg) s.regs).ctr :=
  congrArg Prod.fst (runEnd_triple s ins)
theorem runEnd_inter (s : State) (ins : List CycleInput) : (runEnd s ins).inter = (ins.foldl (nextRegs s.cfg) s.regs).inter :=
  congrArg (fun r => r.2.1) (runEnd_triple s ins)
theorem runEnd_prev (s : State) (ins : List CycleInput) : (runEnd s ins).prev = (ins.foldl (nextRegs s.cfg) s.regs).prev :=
  congrArg (fun r => r.2.2) (runEnd_triple s ins)

/-- What a cycle shows. -/
theorem cycleWith_lastOut (s : State) (p : CycleInput) : (cycleWith s p).lastOut = some (cycleOutputs s p.rst p.stateIn) :=
  congrArg some (cycleOutputs_congr (by simp) (by simp [State.triple_eq]) _ _)

end Sys2Proof.Machine
end

