-- ==== Sys2Proof/Tests/Slice0.lean ====
section
/-! SUPPORT. The model's own tests. Every expected value is taken from spec/95_test_vectors.md (the vector's id stands before the
theorem) or from the rule named there. Second part: for every statement with hypotheses, a concrete state and operands that
meet them. -/

namespace Sys2Proof.Tests

open Sys2Proof.Machine

/-- A legal configuration with a synchronous reset. -/
def config (n r : Nat) (h : LegalPair n r) (style : ResetStyle := .synchronous) : Config where
  nRounds := n
  roundsPerCycle := r
  resetStyle := style
  clockEdge := .rising
  ctrWidth := 4
  legal := h
  wide := by
    obtain ⟨rfl | rfl | rfl, ⟨h1, h2⟩, -, h4⟩ := h <;> interval_cases r <;> simp_all

/-- A state with the registers `ctr`, `inter`, `prev`. -/
def stateAt (c : Config) (ctr : Nat) (inter prev : ChaChaState) (inRange : ctr < c.totalStages := by decide) : State :=
  { State.powerOn c with regs := ⟨ctr, inter, prev, inRange⟩ }

/-- ChaCha12 at two double rounds a cycle, T = 3. -/
def config12x4 : Config := config 12 4 (by decide)

/-- ChaCha8 at two double rounds a cycle, T = 2. -/
def config8x4 : Config := config 8 4 (by decide)

/-- ChaCha12 in a single stage, T = 1. -/
def config12x12 : Config := config 12 12 (by decide)

/-- ChaCha12 in a single stage with an asynchronous reset. -/
def config12x12Async : Config := config 12 12 (by decide) .asynchronous

/-- What an operator left on its output. -/
def resultOf : Host.Outcome State Fault Refusal → Option OpValue
  | .next t => t.opResult
  | .fault _ => none
  | .refused _ => none

/-- What the cycle showed. -/
def shownBy : Host.Outcome State Fault Refusal → Option Outputs
  | .next t => t.lastOut
  | .fault _ => none
  | .refused _ => none

/-- The registers after the edge. -/
def regsOf : Host.Outcome State Fault Refusal → Option (Nat × ChaChaState × ChaChaState)
  | .next t => some t.triple
  | .fault _ => none
  | .refused _ => none

/-- The reason of a refusal. -/
def refusalOf : Host.Outcome State Fault Refusal → Option Refusal
  | .next _ => none
  | .fault _ => none
  | .refused r => some r

/-- `DoubleRound(RANGE)`, V-SRC-3. -/
def doubleRoundOfRange : ChaChaState :=
  #v[0xA9295C6A, 0xB471BE7A, 0x38E65EC4, 0x74348B87, 0xF1AD76C6, 0x7B44627B, 0x946682B0, 0xF12F4910,
     0xD7E22F80, 0x3232DDD4, 0xB5B3B74D, 0xC0240444, 0xC8A5DE45, 0xE417E1D3, 0x1A392478, 0x983C4EBF]

/-- `ChaChaPermute(RANGE, 12)`, V-PERM-5. -/
def permute12OfRange : ChaChaState :=
  #v[0xA987DCBC, 0x366D9736, 0x348A9CD5, 0x7CBBEDDA, 0x8FDD125A, 0x6245C717, 0x4A4EE5D1, 0x3A1ECC23,
     0x5C191268, 0x89A2B5E1, 0xE4573EAB, 0x4BDD1794, 0x0347E75B, 0x1B258AFC, 0x7B0A66EE, 0x5225F2B4]

/-- `ChaChaPermute(RANGE, 20)`, V-SRC-4. -/
def permute20OfRange : ChaChaState :=
  #v[0x48E90081, 0xF390518D, 0x224B1424, 0x0E74BDBA, 0x888688D6, 0x108E96F9, 0x1DE13D88, 0x71BC3E2F,
     0x281FF78E, 0x66900EC6, 0xD3BFBE8C, 0x815F33F9, 0x665AAEC0, 0x7485A172, 0x61889CF5, 0x94255E2F]

/-- The column round of RANGE, V-COL-1. -/
def columnRoundOfRange : ChaChaState :=
  #v[0x8000C004, 0xB000C006, 0x6000C008, 0x5000C00A, 0x64624444, 0xE5E35CDD, 0x63643533, 0xE2E52DAA,
     0x08C80488, 0x0BCB06B9, 0x06C6086A, 0x05C50A5B, 0x08C00480, 0x0BC006B0, 0x06C00860, 0x05C00A50]

/-- `StagePipe(RANGE)` for two double rounds, the r = 4 row of 95_test_vectors section 3.5. -/
def twoDoubleRoundsOfRange : ChaChaState :=
  #v[0xE4BBED90, 0x84F97BA1, 0x75AB03C7, 0x0DE0B699, 0x2E8FA04A, 0x67139BA3, 0x8C200866, 0xE37B184C,
     0x74448556, 0x30DCF3C7, 0x82F2C02A, 0x15500E22, 0xD1E866A5, 0x07CA2D32, 0x19C700EC, 0xDB0A1DF0]

/-! ### Well-formedness: an ill-formed term for each check -/

theorem test_wellFormed_refuses_rotation_zero : (Instr.rotl32 1 0).wellFormed = false := by decide
theorem test_wellFormed_refuses_rotation_32 : (Instr.rotl32 1 32).wellFormed = false := by decide
theorem test_wellFormed_refuses_repeated_index : (Instr.quarterRound zeroState 0 0 8 12).wellFormed = false := by decide
theorem test_wellFormed_refuses_index_16 : (Instr.quarterRound zeroState 0 4 8 16).wellFormed = false := by decide

/-! ### Decoding: words written out from R73, and a line from R71 and R80 -/

theorem test_decode_idle : decodeTableWord 2 0b00 = some (.idle zeroState) := by decide +kernel
theorem test_decode_step : decodeTableWord 2 0b01 = some (.step zeroState) := by decide +kernel
theorem test_decode_reset : decodeTableWord 2 0b10 = some (.reset false zeroState) := by decide +kernel
theorem test_decode_reset_ignores_enabled : decodeTableWord 2 0b11 = some (.reset true zeroState) := by decide +kernel
theorem test_decode_line_word_zero_is_on_top :
    decodeTableWord 514 (2 ^ 513 + 2 ^ 2 + 0b01) =
      some (.step #v[0x80000000, 0, 0, 0, 0, 0, 0, 0, 0, 0, 0, 0, 0, 0, 0, 1]) := by decide +kernel
theorem test_decode_rejects_bits_above_width : (decode 2 4).toOption = none := by decide +kernel
-- P1 line 0 and 1 (95_test_vectors section 4): CTL `10` or `01`, then the 512 bits of `state_in`
theorem test_encode_reset : encode (.reset false zeroState) = some (0b10#2 ++ 0#512) := by decide +kernel
theorem test_encode_step : encode (.step rangeState) = some 0x1000000000000000100000002000000030000000400000005000000060000000700000008000000090000000a0000000b0000000c0000000d0000000e0000000f#514 := by decide +kernel

/-! ### Word operators -/

-- V-ADD-2, V-ADD-4
theorem test_add32_wraps_to_zero : resultOf (exec (.add32 0xFFFFFFFF 1) State.reset) = some (.word 0) := by decide +kernel
theorem test_add32_maximum :
    resultOf (exec (.add32 0xFFFFFFFF 0xFFFFFFFF) State.reset) = some (.word 0xFFFFFFFE) := by decide +kernel
-- V-XOR-2
theorem test_xor32_mask :
    resultOf (exec (.xor32 0xFFFFFFFF 0x0F0F0F0F) State.reset) = some (.word 0xF0F0F0F0) := by decide +kernel
-- V-ROT-5, V-ROT-7, V-ROT-11
theorem test_rotl32_by_12 :
    resultOf (exec (.rotl32 0x80000001 12) State.reset) = some (.word 0x00001800) := by decide +kernel
theorem test_rotl32_by_7 :
    resultOf (exec (.rotl32 0xDEADBEEF 7) State.reset) = some (.word 0x56DF77EF) := by decide +kernel
theorem test_rotl32_by_32_refused :
    refusalOf (exec (.rotl32 1 32) State.reset) = some .rotationOutsideContract := by decide +kernel

/-! ### State operators -/

-- V-QR-4
theorem test_quarterRound_diagonal_group : resultOf (exec (.quarterRound rangeState 1 6 11 12) State.reset) =
    some (.state #v[0, 0xB000D007, 2, 3, 4, 5, 0xEDEBDDDD, 7, 8, 9, 10, 0x0BDB07BB, 0x0BD007B0, 13, 14, 15]) := by
  decide +kernel
-- V-GK-1, with the indices (0,1,2,3), which are no wired group
theorem test_quarterRound_rfc : resultOf (exec (.quarterRound
    #v[0x11111111, 0x01020304, 0x9B8D6F43, 0x01234567, 0, 0, 0, 0, 0, 0, 0, 0, 0, 0, 0, 0] 0 1 2 3) State.reset) =
    some (.state #v[0xEA2A92F4, 0xCB1CF8CE, 0x4581472E, 0x5881C4BB, 0, 0, 0, 0, 0, 0, 0, 0, 0, 0, 0, 0]) := by
  decide +kernel
-- V-QR-8
theorem test_quarterRound_repeated_index_refused :
    refusalOf (exec (.quarterRound rangeState 0 0 8 12) State.reset) = some .indicesOutsideContract := by decide +kernel
-- V-COL-1
theorem test_columnRound_of_range :
    resultOf (exec (.columnRound rangeState) State.reset) = some (.state columnRoundOfRange) := by decide +kernel
-- V-DIAG-1
theorem test_diagonalRound_of_column_round :
    resultOf (exec (.diagonalRound columnRoundOfRange) State.reset) = some (.state doubleRoundOfRange) := by decide +kernel
-- V-SRC-3, V-DR-4
theorem test_doubleRound_of_range :
    resultOf (exec (.doubleRound rangeState) State.reset) = some (.state doubleRoundOfRange) := by decide +kernel
theorem test_doubleRound_of_one_bit :
    resultOf (exec (.doubleRound #v[1, 0, 0, 0, 0, 0, 0, 0, 0, 0, 0, 0, 0, 0, 0, 0]) State.reset) = some (.state
      #v[0x21000001, 0x00100011, 0x10110010, 0x01090890, 0x8C08C084, 0x08889088, 0x80890800, 0x08089801,
         0x12011120, 0x89909109, 0x01111121, 0x01111201, 0x00011101, 0x11001010, 0x01881089, 0x01100121]) := by
  decide +kernel
-- V-FIN-1, V-FIN-4
theorem test_roundsFinish_does_not_carry_between_words :
    resultOf (exec (.roundsFinish onesState #v[0, 0, 0, 0, 0, 0, 0, 0, 0, 0, 0, 0, 0, 0, 0, 1]) State.reset) = some (.state
      #v[0xFFFFFFFF, 0xFFFFFFFF, 0xFFFFFFFF, 0xFFFFFFFF, 0xFFFFFFFF, 0xFFFFFFFF, 0xFFFFFFFF, 0xFFFFFFFF,
         0xFFFFFFFF, 0xFFFFFFFF, 0xFFFFFFFF, 0xFFFFFFFF, 0xFFFFFFFF, 0xFFFFFFFF, 0xFFFFFFFF, 0]) := by
  decide +kernel
theorem test_roundsFinish_drops_the_top_carry :
    resultOf (exec (.roundsFinish #v[0xFFFFFFFF, 0, 0, 0, 0, 0, 0, 0, 0, 0, 0, 0, 0, 0, 0, 0]
      #v[1, 0, 0, 0, 0, 0, 0, 0, 0, 0, 0, 0, 0, 0, 0, 0]) State.reset) = some (.state zeroState) := by decide +kernel
-- 95_test_vectors section 3.5, rows r = 2 and r = 4
theorem test_stagePipe_one_unit :
    resultOf (exec (.stagePipe rangeState) State.reset) = some (.state doubleRoundOfRange) := by decide +kernel
theorem test_stagePipe_two_units :
    resultOf (exec (.stagePipe rangeState) (State.powerOn config8x4)) = some (.state twoDoubleRoundsOfRange) := by
  decide +kernel
-- V-PERM-5, V-PERM-8
theorem test_chachaPermute_12 :
    resultOf (exec (.chachaPermute rangeState .r12) State.reset) = some (.state permute12OfRange) := by decide +kernel
theorem test_chachaPermute_20 :
    resultOf (exec (.chachaPermute rangeState .r20) State.reset) = some (.state permute20OfRange) := by decide +kernel

/-! ### Cycle actions -/

-- V-ACT-1, as the step that runs the presented line
theorem test_step_captures_and_runs_a_stage :
    regsOf (Machine.step (presentInput State.reset ⟨false, true, rangeState⟩)) =
      some ⟨1, doubleRoundOfRange, rangeState⟩ := by decide +kernel
-- V-ACT-3 on program P4's last state (T = 3): the terminal stage holds
theorem test_step_holds_at_the_terminal_stage :
    regsOf (exec (.step onesState) (stateAt config12x4 2 twoDoubleRoundsOfRange rangeState)) =
      some ⟨2, twoDoubleRoundsOfRange, rangeState⟩ := by decide +kernel
-- V-ACT-8: IDLE at counter 0 captures nothing
theorem test_idle_captures_nothing :
    regsOf (exec (.idle rangeState) (State.powerOn config8x4)) = some ⟨0, zeroState, zeroState⟩ := by decide +kernel
-- V-ACT-7: a single-stage engine shows the permutation of a held input, also in an IDLE cycle
theorem test_idle_shows_the_held_permutation :
    shownBy (exec (.idle rangeState) (stateAt config12x12 0 zeroState rangeState)) =
      some ⟨true, permute12OfRange⟩ := by decide +kernel
-- V-ACT-5
theorem test_reset_clears : regsOf (exec (.reset true rangeState) (stateAt config12x4 2 onesState rangeState)) =
    some ⟨0, zeroState, zeroState⟩ := by decide +kernel
-- P4 cycle 5 (synchronous): the reset cycle still shows the state before; here by `done`, 1 before and 0 after (T = 3)
theorem test_reset_cycle_shows_the_state_before :
    (shownBy (exec (.reset true rangeState) (stateAt config12x4 2 onesState rangeState))).map Outputs.done = some true := by
  decide +kernel
-- withFetchWord puts a word where the next step reads it (R73)
theorem test_withFetchWord_runs_step :
    regsOf (Machine.step (State.reset.withFetchWord 2 0b01)) = some ⟨1, zeroState, zeroState⟩ := by decide +kernel

/-! ### Construction (95_test_vectors section 3.7) -/

-- V-CFG-5, V-CFG-8, V-CFG-9, V-CFG-10
theorem test_violations_odd : Config.violations 12 3 = [.oddRoundsPerCycle] := by decide
theorem test_violations_too_large : Config.violations 8 10 = [.roundsPerCycleOutOfRange, .notADivisor] := by decide
theorem test_violations_zero : Config.violations 8 0 = [.roundsPerCycleOutOfRange] := by decide
theorem test_violations_three_kinds :
    Config.violations 16 3 = [.invalidRoundCount, .notADivisor, .oddRoundsPerCycle] := by decide

/-! ### Witnesses: states and operands that meet the hypotheses of each statement -/

/-- A reachable state of a multi-stage engine in the middle of a run on RANGE. -/
def midRun : State := stateAt config12x4 1 twoDoubleRoundsOfRange rangeState

/-- The state after `DoubleRound^4(RANGE)` at the terminal stage of the same engine (P4's end state). -/
def terminal : State := stateAt config12x4 2 (doubleRounds 4 rangeState) rangeState

/-- A single-stage engine that has captured RANGE. -/
def singleHeld : State := stateAt config12x12 0 zeroState rangeState

theorem witness_EveryCtlValueSelectsOneAction :
    (⟨true, true, zeroState⟩ : CycleInput).rst = true ∧ (⟨false, false, zeroState⟩ : CycleInput).enabled = false ∧
      (⟨false, true, zeroState⟩ : CycleInput).enabled = true := by decide
theorem witness_StatesPackWordZeroMostSignificant : 0 < 32 ∧ 31 < 32 := by decide
theorem witness_DecodingAnEncodedActionGivesItBack :
    (Instr.reset true onesState).isCycleAction = true ∧ (Instr.idle onesState).isCycleAction = true ∧
      (Instr.step onesState).isCycleAction = true ∧ (Instr.add32 1 2).isCycleAction = false := by decide
theorem witness_IllegalConfigurationsGiveNoEngine : LegalPair 20 20 ∧ ¬ LegalPair 20 40 ∧ ¬ LegalPair 8 0 ∧ 3 > 0 := by decide
theorem witness_ConfigurationNeverChanges :
    (∃ t, exec (.step onesState) midRun = .next t) ∧ (∃ t, Machine.step (midRun.drivenBy [⟨false, true, onesState⟩]) = .next t) :=
  ⟨⟨_, rfl⟩, ⟨_, rfl⟩⟩
theorem witness_StepRunsTheDecodedAction :
    (midRun.drivenBy [⟨false, true, onesState⟩]).pending = [⟨false, true, onesState⟩] ∧ midRun.pending = [] ∧
      (decode 2 0b01).toOption = some (.step zeroState) := by decide +kernel
theorem witness_NothingStopsTheEngine : (Instr.rotl32 1 31).wellFormed = true ∧ (Instr.rotl32 1 32).wellFormed = false ∧
    (Instr.quarterRound zeroState 0 5 10 15).wellFormed = true ∧ (Instr.quarterRound zeroState 0 5 10 16).wellFormed = false := by
  decide
theorem witness_ResetClearsEveryRegister :
    midRun.cfg.resetStyle = .synchronous ∧ midRun.ctr ≠ 0 ∧
      (∃ t, exec (.reset false onesState) midRun = .next t ∧ t.ctr = 0) := ⟨by decide, by decide, _, rfl, rfl⟩
theorem witness_IdleHoldsEveryRegister :
    1 < terminal.cfg.totalStages ∧ terminal.ctr = terminal.cfg.totalStages - 1 := by decide
theorem witness_StepFollowsItsFourCases :
    ((State.powerOn config12x4).ctr = 0 ∧ 1 < config12x4.totalStages) ∧ (0 < midRun.ctr ∧ midRun.ctr < midRun.cfg.totalStages - 1) ∧
      (terminal.ctr = terminal.cfg.totalStages - 1 ∧ 1 < terminal.cfg.totalStages) ∧
      (singleHeld.ctr = 0 ∧ singleHeld.cfg.totalStages = 1) := by decide
theorem witness_OutputsOfEveryCycle :
    ShowsRegisters config12x12Async (⟨false, true, onesState⟩ : CycleInput) ∧
      ShowsRegisters terminal.cfg (currentInput (terminal.drivenBy [⟨true, false, onesState⟩])) ∧
      doneFlag terminal = true ∧ doneFlag midRun = false := by decide
theorem witness_ResetStyleShowsOnlyInTheResetCycle :
    (currentInput (terminal.drivenBy [⟨true, true, onesState⟩])).rst = true ∧ terminal.cfg.resetStyle = .synchronous ∧
      config12x12Async.resetStyle = .asynchronous ∧ (currentInput (terminal.drivenBy [⟨false, true, onesState⟩])).rst = false := by
  decide
theorem witness_CounterWidthAndClockEdgeAreUnobservable :
    midRun.cfg.nRounds / midRun.cfg.roundsPerCycle ≤ 2 ^ 2 := by decide
theorem witness_StepKeepsTheScheduleInvariant :
    terminal.Inv ∧ singleHeld.Inv ∧ (∃ t, Machine.step (midRun.drivenBy [⟨false, true, onesState⟩]) = .next t) :=
  ⟨by decide +kernel, by decide +kernel, _, rfl⟩
theorem witness_HistoryDeterminesTheRegisters :
    stepCount (sinceReset [⟨false, true, onesState⟩, ⟨true, true, onesState⟩, ⟨false, true, rangeState⟩]) = 1 ∧
      config12x12.totalStages = 1 ∧ 1 < config12x4.totalStages := by decide +kernel
theorem witness_RunResultIsTheReferencePermutation :
    ShowsRegisters config12x4 (⟨true, false, onesState⟩ : CycleInput) ∧
      firstStepped (sinceReset [⟨false, true, rangeState⟩, ⟨false, true, onesState⟩]) = some rangeState ∧
      config12x4.totalStages - 1 ≤ stepCount (sinceReset [⟨false, true, rangeState⟩, ⟨false, true, onesState⟩]) ∧
      stepCount (sinceReset [⟨false, true, rangeState⟩]) < config12x4.totalStages - 1 ∧
      lastStepped (sinceReset [⟨false, true, onesState⟩, ⟨false, true, rangeState⟩]) = some rangeState := by decide +kernel
theorem witness_PseudoRunShowsThePermutation :
    [zeroState, onesState, onesState, rangeState].length = (expand midRun.cfg (.run rangeState)).length ∧
      [zeroState, onesState, onesState].length = (expand singleHeld.cfg (.run rangeState)).length := by decide +kernel
theorem witness_NewInputMidRunIsIgnored : midRun.ctr ≠ 0 ∧ terminal.ctr ≠ 0 := by decide
theorem witness_EngineIsOneShotUntilReset : midRun.ctr ≠ 0 ∧ singleHeld.ctr = 0 ∧ singleHeld.cfg.totalStages = 1 ∧
    (∀ p ∈ [(⟨false, true, onesState⟩ : CycleInput), ⟨false, false, onesState⟩], p.rst = false) := by decide
theorem witness_TerminalStageHolds :
    1 < terminal.cfg.totalStages ∧ terminal.ctr = terminal.cfg.totalStages - 1 ∧
      (∀ p ∈ [(⟨false, true, onesState⟩ : CycleInput)], p.rst = false) ∧
      singleHeld.ctr = singleHeld.cfg.totalStages - 1 ∧
      (currentInput (singleHeld.drivenBy [⟨false, true, onesState⟩])).rst = false := by decide
theorem witness_NothingShowsBeforeCompletion : midRun.ctr < midRun.cfg.totalStages - 1 := by decide
theorem witness_SingleStageEngineShowsThePermutationOfAHeldInput :
    singleHeld.cfg.totalStages = 1 ∧
      ShowsRegisters singleHeld.cfg (currentInput (singleHeld.drivenBy [⟨false, true, rangeState⟩])) ∧
      (currentInput (singleHeld.drivenBy [⟨false, true, rangeState⟩])).stateIn = singleHeld.prev ∧
      (⟨false, false, onesState⟩ : CycleInput).stateIn = onesState := by decide +kernel
theorem witness_ProgressNeverDependsOnData :
    midRun.cfg = (stateAt config12x4 1 onesState zeroState).cfg ∧ midRun.ctr = (stateAt config12x4 1 onesState zeroState).ctr ∧
      [(⟨false, true, onesState⟩ : CycleInput)].map CycleInput.ctl = [(⟨false, true, rangeState⟩ : CycleInput)].map CycleInput.ctl := by
  decide +kernel
theorem witness_StageHandsItsOutputToTheNext : midRun.ctr ≠ midRun.cfg.totalStages - 1 := by decide
theorem witness_OutputsHoldNoStateOfTheirOwn :
    terminal.cfg = (presentInput terminal ⟨false, true, onesState⟩).cfg ∧
      terminal.triple = (presentInput terminal ⟨false, true, onesState⟩).triple ∧
      (terminal.ctr = 0 → (⟨true, true, onesState⟩ : CycleInput).stateIn = (⟨false, false, rangeState⟩ : CycleInput).stateIn) ∧
      ShowsRegisters terminal.cfg (⟨true, true, onesState⟩ : CycleInput) ∧
      ShowsRegisters terminal.cfg (⟨false, false, rangeState⟩ : CycleInput) := by decide +kernel
theorem witness_OnePermutationEveryTCycles :
    (State.powerOn config12x4).cfg.resetStyle = .synchronous ∧ 1 < (State.powerOn config12x4).cfg.totalStages ∧
      (State.powerOn config12x4).triple = ⟨0, zeroState, zeroState⟩ ∧ [onesState].length + 2 = (State.powerOn config12x4).cfg.totalStages := by
  decide
theorem witness_Rotl32MovesEveryBit : 0 < 31 ∧ 31 < 32 ∧ ¬ (0 < 0 ∧ 0 < 32) ∧ ¬ (0 < 32 ∧ 32 < 32) := by decide
theorem witness_QuarterRoundMixesFourWords :
    ((3 : Fin 16) ≠ 4 ∧ (3 : Fin 16) ≠ 9 ∧ (3 : Fin 16) ≠ 14 ∧ (4 : Fin 16) ≠ 9 ∧ (4 : Fin 16) ≠ 14 ∧ (9 : Fin 16) ≠ 14) ∧
      (0 : Fin 16) ≠ 3 ∧ ¬ ((0 < 16 ∧ 4 < 16 ∧ 8 < 16 ∧ 16 < 16) ∧ [0, 4, 8, 16].Nodup) ∧
      ¬ ((0 < 16 ∧ 0 < 16 ∧ 8 < 16 ∧ 12 < 16) ∧ [0, 0, 8, 12].Nodup) := by decide
theorem witness_ColumnRoundMixesEachColumn :
    [(⟨3, 7, 11, 15⟩ : IndexGroup), ⟨0, 4, 8, 12⟩, ⟨1, 5, 9, 13⟩, ⟨2, 6, 10, 14⟩].Perm
      [⟨0, 4, 8, 12⟩, ⟨1, 5, 9, 13⟩, ⟨2, 6, 10, 14⟩, ⟨3, 7, 11, 15⟩] := by decide
theorem witness_OperatorsArePure :
    (Instr.stagePipe onesState).isCycleAction = false ∧ (∃ t, exec (.stagePipe onesState) midRun = .next t) ∧
      terminal.cfg = midRun.cfg := ⟨by decide, ⟨_, rfl⟩, by decide⟩

end Sys2Proof.Tests
end

section
/-! The legal configuration pairs (spec/00_scope.md R4) and the configuration parameters that no cycle reads (R7). -/

namespace Sys2Proof

/-- The pairs `(N_ROUNDS, ROUNDS_PER_CYCLE)` of R4's table. -/
def legalPairs : List (Nat × Nat) :=
  [(8, 2), (8, 4), (8, 8), (12, 2), (12, 4), (12, 6), (12, 12), (20, 2), (20, 4), (20, 10), (20, 20)]

/-- The row of R4's table for a pair: the pair with its `T` and `K` (R21). -/
def scheduleRow (pair : Nat × Nat) : Nat × Nat × Nat × Nat := (pair.1, pair.2, pair.1 / pair.2, pair.2 / 2)

/-- R4's list is exact: R76 bounds both numbers of a pair, so a finite search finds all legal pairs. -/
theorem legalPair_iff_mem_legalPairs (n r : Nat) : LegalPair n r ↔ (n, r) ∈ legalPairs := by
  constructor
  · intro h
    have search : ∀ n ∈ [8, 12, 20], ∀ r < 21, LegalPair n r → (n, r) ∈ legalPairs := by decide
    have ⟨hn, ⟨hle, _⟩, _⟩ := h
    exact search n (by simpa using hn) r (by omega) h
  · have listed : ∀ pair ∈ legalPairs, LegalPair pair.1 pair.2 := by decide
    exact listed (n, r)

/-- A configuration has the `T` and `K` of a row of R4's table. -/
theorem Config.scheduleRow_mem (c : Config) :
    (c.nRounds, c.roundsPerCycle, c.totalStages, c.unitsPerStage) ∈ legalPairs.map scheduleRow :=
  List.mem_map_of_mem (f := scheduleRow) ((legalPair_iff_mem_legalPairs _ _).mp c.legal)

/-- Settles O6: R76's conditions hold for the pairs of R4's list alone, and every configuration's pair is on it. -/
theorem exactlyElevenLegalConfigurations : Obligations.ExactlyElevenLegalConfigurations :=
  ⟨legalPair_iff_mem_legalPairs, Config.scheduleRow_mem⟩

namespace Machine

/-- Two states with the same register values, whose engines have the same `T` and `K` (R21). The rest of the configurations
and the model's own fields may differ. -/
structure SameDatapath (s s' : State) : Prop where
  stages : s.cfg.totalStages = s'.cfg.totalStages
  units : s.cfg.unitsPerStage = s'.cfg.unitsPerStage
  registers : s.triple = s'.triple

namespace SameDatapath

variable {s s' : State}

theorem atLastStage_eq (h : SameDatapath s s') : atLastStage s = atLastStage s' := by
  obtain ⟨hctr, _, _⟩ := (State.triple_eq_iff s s').mp h.registers
  simp [atLastStage, hctr, h.stages]

theorem doneFlag_eq (h : SameDatapath s s') : doneFlag s = doneFlag s' := h.atLastStage_eq

theorem pipelineOut_eq (h : SameDatapath s s') (x : ChaChaState) : pipelineOut s x = pipelineOut s' x := by
  obtain ⟨hctr, hinter, _⟩ := (State.triple_eq_iff s s').mp h.registers
  simp [pipelineOut, pipelineIn, stagePipe, hctr, hinter, h.units]

theorem stateOut_eq (h : SameDatapath s s') (x : ChaChaState) : stateOut s x = stateOut s' x := by
  obtain ⟨_, _, hprev⟩ := (State.triple_eq_iff s s').mp h.registers
  simp [stateOut, h.doneFlag_eq, h.pipelineOut_eq, hprev]

theorem consumeInput (h : SameDatapath s s') : SameDatapath (consumeInput s) (consumeInput s') :=
  ⟨h.stages, h.units, h.registers⟩

theorem clearRegisters (h : SameDatapath s s') : SameDatapath (clearRegisters s) (clearRegisters s') :=
  ⟨h.stages, h.units, rfl⟩

theorem stepRegisters (h : SameDatapath s s') (x : ChaChaState) :
    SameDatapath (stepRegisters s x) (stepRegisters s' x) := by
  obtain ⟨hctr, hinter, hprev⟩ := (State.triple_eq_iff s s').mp h.registers
  refine ⟨h.stages, h.units, ?_⟩
  simp [State.triple_eq, hctr, hinter, hprev, h.atLastStage_eq, h.pipelineOut_eq]

/-- The registers after a cycle depend on the registers before it, `T`, `K` and the inputs, and on nothing else. -/
theorem cycleEnd_triple (h : SameDatapath s s') (p : CycleInput) : (cycleEnd s p).triple = (cycleEnd s' p).triple := by
  obtain ⟨rst, enabled, x⟩ := p
  cases rst
  · cases enabled
    · exact h.registers
    · exact (h.stepRegisters x).registers
  · exact h.clearRegisters.registers

/-- The reset style is all that the outputs of a cycle read beside the datapath. -/
theorem cycleOutputs_eq (h : SameDatapath s s') (hstyle : s.cfg.resetStyle = s'.cfg.resetStyle) (rst : Bool)
    (x : ChaChaState) : cycleOutputs s rst x = cycleOutputs s' rst x := by
  have hread : SameDatapath (outputRegisters s rst) (outputRegisters s' rst) := by
    simp only [outputRegisters, hstyle]
    split
    · exact h.clearRegisters
    · exact h
  simp [cycleOutputs, hread.doneFlag_eq, hread.stateOut_eq]

end SameDatapath

/-- Changing the counter width and the clock edge leaves `T`, `K` and the registers. -/
theorem sameDatapath_ctrWidth_clockEdge (s : State) (w : Nat) (h : s.cfg.nRounds / s.cfg.roundsPerCycle ≤ 2 ^ w)
    (edge : ClockEdge) :
    SameDatapath { s with cfg := { s.cfg with ctrWidth := w, wide := h, clockEdge := edge } } s :=
  ⟨rfl, rfl, rfl⟩

/-- The counter fits its register (R22, decision D6). -/
theorem State.ctr_lt_two_pow_ctrWidth (s : State) : s.ctr < 2 ^ s.cfg.ctrWidth :=
  s.ctr_lt.trans_le s.cfg.wide

/-- Settles O17: both engines sample the same inputs, and a cycle reads neither parameter. -/
theorem counterWidthAndClockEdgeAreUnobservable : Obligations.CounterWidthAndClockEdgeAreUnobservable := by
  refine ⟨fun s w h edge => ⟨_, _, step_eq _, step_eq _, ?_, ?_⟩, State.ctr_lt_two_pow_ctrWidth⟩
  · exact (sameDatapath_ctrWidth_clockEdge s w h edge).consumeInput.cycleEnd_triple (currentInput s)
  · exact congrArg some ((sameDatapath_ctrWidth_clockEdge s w h edge).consumeInput.cycleOutputs_eq rfl _ _)

end Machine
end Sys2Proof
end

section
/-! The schedule invariant (spec/10_state.md R30) and the registers as a function of the inputs since the last RESET
(spec/41_scheduler.md R156). -/

namespace Sys2Proof.Machine

/-- No instruction writes the configuration (R20). -/
theorem exec_cfg {i : Instr} {s t : State} (h : exec i s = .next t) : t.cfg = s.cfg := by
  obtain ⟨_, _, -, rfl⟩ | ⟨_, -, rfl⟩ | ⟨_, -, rfl⟩ | ⟨-, _, rfl⟩ := exec_next_cases h <;> rfl

/-- Settles O8: a step is an instruction run after the driver has moved on. -/
theorem configurationNeverChanges : Obligations.ConfigurationNeverChanges :=
  ⟨fun _ _ _ h => exec_cfg h, fun s _ h => (exec_cfg h).trans (consumeInput_cfg s)⟩

/-- The reset state meets the invariant. -/
theorem State.inv_of_reset {s : State} (h : s.triple = (0, zeroState, zeroState)) : s.Inv := by
  obtain ⟨hctr, hinter, hprev⟩ : s.ctr = 0 ∧ s.inter = zeroState ∧ s.prev = zeroState := by
    simpa [State.triple_eq] using h
  exact ⟨fun hne => absurd hctr hne, fun _ => hinter, fun _ _ => hprev⟩

/-- The register writes of STEP keep the invariant: at the last stage `ctr` and `inter` hold, and before it the pipeline
takes one stage more. -/
theorem stepRegisters_inv {s : State} (h : s.Inv) (x : ChaChaState) : (stepRegisters s x).Inv := by
  obtain ⟨hmid, hinter, -⟩ := h
  by_cases hlast : s.ctr = s.cfg.totalStages - 1
  · have hat : atLastStage s = true := (atLastStage_iff s).mpr hlast
    have hctr : (stepRegisters s x).ctr = s.ctr := by simp [hat]
    have hsame : (stepRegisters s x).inter = s.inter := by simp [hat]
    rw [State.Inv, hctr, hsame, stepRegisters_prev, stepRegisters_cfg]
    refine ⟨fun hne => ?_, hinter, fun h0 hmulti => by omega⟩
    rw [if_neg hne]
    exact hmid hne
  · have hat : ¬ atLastStage s = true := mt (atLastStage_iff s).mp hlast
    have hctr : (stepRegisters s x).ctr = s.ctr + 1 := by simp [hat]
    have hne : (stepRegisters s x).ctr ≠ 0 := by omega
    refine ⟨fun _ => ?_, fun h0 => absurd h0 hne, fun h0 => absurd h0 hne⟩
    rw [hctr, Function.iterate_succ_apply', stepRegisters_inter, if_neg hat, stepRegisters_prev, stepRegisters_cfg,
      pipelineOut]
    by_cases h0 : s.ctr = 0
    · simp [pipelineIn_start, h0]
    · rw [pipelineIn_later h0, if_neg h0, ← hmid h0]

/-- Every instruction keeps the invariant: RESET establishes it, and IDLE and the operators write no register. -/
theorem exec_inv {i : Instr} {s t : State} (hs : s.Inv) (h : exec i s = .next t) : t.Inv := by
  obtain ⟨_, _, -, rfl⟩ | ⟨_, -, rfl⟩ | ⟨x, -, rfl⟩ | ⟨-, _, rfl⟩ := exec_next_cases h
  · exact State.inv_of_reset rfl
  · exact hs
  · exact stepRegisters_inv hs x
  · exact hs

/-- Settles O18: a step is an instruction run after the driver has moved on, which moves no register. -/
theorem stepKeepsTheScheduleInvariant : Obligations.StepKeepsTheScheduleInvariant :=
  ⟨fun s _ hs h => exec_inv (s := consumeInput s) hs h, fun _ _ _ => exec_inv⟩

theorem cycleWith_inv {s : State} (h : s.Inv) (p : CycleInput) : (cycleWith s p).Inv :=
  exec_inv (s := consumeInput (s.drivenBy [p])) h (exec_decodeCycle _ p)

theorem runEnd_inv {s : State} (h : s.Inv) (ins : List CycleInput) : (runEnd s ins).Inv := by
  induction ins generalizing s with
  | nil => exact h
  | cons p ins ih =>
    rw [runEnd_cons]
    exact ih (cycleWith_inv h p)

/-- A RESET forgets the inputs before it, and every other input is added to them. -/
theorem sinceReset_concat (ins : List CycleInput) (p : CycleInput) :
    sinceReset (ins ++ [p]) = if p.rst then [] else sinceReset ins ++ [p] := by
  cases h : p.rst <;> simp [sinceReset, h]

@[simp] theorem stepCount_concat_idle (ins : List CycleInput) (x : ChaChaState) :
    stepCount (ins ++ [⟨false, false, x⟩]) = stepCount ins := by
  simp [stepCount]

@[simp] theorem stepCount_concat_step (ins : List CycleInput) (x : ChaChaState) :
    stepCount (ins ++ [⟨false, true, x⟩]) = stepCount ins + 1 := by
  simp [stepCount]

@[simp] theorem firstStepped_concat_idle (ins : List CycleInput) (x : ChaChaState) :
    firstStepped (ins ++ [⟨false, false, x⟩]) = firstStepped ins := by
  simp [firstStepped]

@[simp] theorem firstStepped_concat_step (ins : List CycleInput) (x : ChaChaState) :
    firstStepped (ins ++ [⟨false, true, x⟩]) = (firstStepped ins).or (some x) := by
  simp only [firstStepped, List.find?_append, Option.map_or]
  rfl

@[simp] theorem lastStepped_concat_idle (ins : List CycleInput) (x : ChaChaState) :
    lastStepped (ins ++ [⟨false, false, x⟩]) = lastStepped ins := by
  simp [lastStepped, firstStepped]

@[simp] theorem lastStepped_concat_step (ins : List CycleInput) (x : ChaChaState) :
    lastStepped (ins ++ [⟨false, true, x⟩]) = some x := by
  simp [lastStepped, firstStepped]

/-- Induction over the history of an engine: what holds of the reset registers with no input since, and is kept when an IDLE
or a STEP is added, holds after any inputs from power-on of the inputs since the last RESET and the registers. -/
theorem history_induction {cfg : Config} {motive : List CycleInput → Regs cfg.totalStages → Prop}
    (reset : motive [] (Regs.reset cfg))
    (idle : ∀ since r x, motive since r → motive (since ++ [⟨false, false, x⟩]) r)
    (step : ∀ since r x, motive since r → motive (since ++ [⟨false, true, x⟩]) (nextRegs cfg r ⟨false, true, x⟩))
    (ins : List CycleInput) : motive (sinceReset ins) (ins.foldl (nextRegs cfg) (Regs.reset cfg)) := by
  induction ins using List.reverseRecOn with
  | nil => exact reset
  | append_singleton ins p ih =>
    rw [sinceReset_concat, List.foldl_concat]
    obtain ⟨rst, enabled, x⟩ := p
    cases rst
    · cases enabled
      · exact idle _ _ x ih
      · exact step _ _ x ih
    · exact reset

/-- The counter is the number of STEPs since the last RESET, held at the last stage (R156). -/
theorem runEnd_powerOn_ctr (cfg : Config) (ins : List CycleInput) :
    (runEnd (State.powerOn cfg) ins).ctr = min (stepCount (sinceReset ins)) (cfg.totalStages - 1) := by
  rw [runEnd_ctr]
  refine history_induction (cfg := cfg) (motive := fun since r => r.ctr = min (stepCount since) (cfg.totalStages - 1))
    (Nat.zero_min _).symm (fun since r x ih => ?_) (fun since r x ih => ?_) ins
  · rw [stepCount_concat_idle, ih]
  · rw [stepCount_concat_step, nextRegs_step_ctr]
    split <;> omega

/-- In a multi-stage engine the counter leaves 0 with the first STEP since the last RESET, which `prev` captures. -/
theorem firstStepped_sinceReset {cfg : Config} (hmulti : 1 < cfg.totalStages) (ins : List CycleInput) :
    firstStepped (sinceReset ins) =
      if (runEnd (State.powerOn cfg) ins).ctr = 0 then none else some (runEnd (State.powerOn cfg) ins).prev := by
  rw [runEnd_ctr, runEnd_prev]
  refine history_induction (cfg := cfg) (motive := fun since r => firstStepped since = if r.ctr = 0 then none else some r.prev)
    rfl (fun since r x ih => ?_) (fun since r x ih => ?_) ins
  · rw [firstStepped_concat_idle, ih]
  · rw [firstStepped_concat_step, ih, nextRegs_step_ctr, nextRegs_step_prev]
    by_cases h0 : r.ctr = 0
    · have hlast : ¬ 0 = cfg.totalStages - 1 := by omega
      simp [h0, hlast]
    · have hne : (if r.ctr = cfg.totalStages - 1 then r.ctr else r.ctr + 1) ≠ 0 := by split <;> omega
      simp [h0, hne]

/-- A single-stage engine captures the `state_in` of every STEP (R158). -/
theorem runEnd_powerOn_prev_of_single {cfg : Config} (hsingle : cfg.totalStages = 1) (ins : List CycleInput) :
    (runEnd (State.powerOn cfg) ins).prev = (lastStepped (sinceReset ins)).getD zeroState := by
  rw [runEnd_prev]
  refine history_induction (cfg := cfg) (motive := fun since r => r.prev = (lastStepped since).getD zeroState)
    rfl (fun since r x ih => ?_) (fun since r x ih => ?_) ins
  · rw [lastStepped_concat_idle, ih]
  · have h0 : r.ctr = 0 := by have := r.inRange; omega
    simp [h0]

/-- Settles O20: `inter` is the invariant's, and the counter and `prev` follow the inputs by induction over the history. -/
theorem historyDeterminesTheRegisters : Obligations.HistoryDeterminesTheRegisters := by
  intro cfg ins
  obtain ⟨hmid, hinter, hprev⟩ := runEnd_inv (State.inv_of_reset (s := State.powerOn cfg) rfl) ins
  have hlt := (runEnd (State.powerOn cfg) ins).ctr_lt
  rw [runEnd_cfg, State.powerOn_cfg] at hmid hprev hlt
  refine ⟨_, runsTo_runEnd _ ins, runEnd_powerOn_ctr cfg ins, fun h0 => ⟨hinter h0, hprev h0⟩, fun hne => ?_,
    fun hsingle => ⟨hinter (by omega), runEnd_powerOn_prev_of_single hsingle ins⟩⟩
  refine ⟨?_, hmid hne, (hmid hne).trans (stagePipe_iterate cfg _ _)⟩
  rw [firstStepped_sinceReset (by omega : 1 < cfg.totalStages), if_neg hne]

end Sys2Proof.Machine
end

section
/-! The 512-bit packing of a state (spec/30_encoding.md R71, spec/20_memory.md R54). -/

namespace Sys2Proof

/-- R71's slice `v[(15-i)*32+31 : (15-i)*32]` of a packed state is word `i`. -/
theorem extractLsb'_packState (S : ChaChaState) (i : Fin 16) :
    (packState S).extractLsb' ((15 - i.val) * 32) 32 = S.get i := by
  apply BitVec.eq_of_toNat_eq
  rw [BitVec.extractLsb'_toNat, Nat.shiftRight_eq_div_pow]
  exact packState_word S i

/-- Bit `j` of word `i` in the packed state (R54). -/
theorem getLsbD_packState (S : ChaChaState) (i : Fin 16) {j : Nat} (hj : j < 32) :
    (packState S).getLsbD ((15 - i.val) * 32 + j) = (S.get i).getLsbD j := by
  rw [← extractLsb'_packState S i, BitVec.getLsbD_extractLsb', decide_eq_true hj, Bool.true_and]

@[simp] theorem unpackState_packState (S : ChaChaState) : unpackState (packState S) = S :=
  Machine.state_ext fun i => by rw [unpackState_get, extractLsb'_packState]

/-- Every bit of a 512-bit value lies in the slice of one word, so unpacking loses none. -/
@[simp] theorem packState_unpackState (v : BitVec 512) : packState (unpackState v) = v := by
  apply BitVec.eq_of_getLsbD_eq
  intro k hk
  have hj : k % 32 < 32 := Nat.mod_lt k (by decide)
  have hslice : k = (15 - (15 - k / 32)) * 32 + k % 32 := by omega
  have hword := getLsbD_packState (unpackState v) ⟨15 - k / 32, by omega⟩ hj
  rw [unpackState_get, BitVec.getLsbD_extractLsb', decide_eq_true hj, Bool.true_and, ← hslice] at hword
  exact hword

/-- Settles O3: word by word from R71's slices, and the two round trips. -/
theorem statesPackWordZeroMostSignificant : Obligations.StatesPackWordZeroMostSignificant :=
  ⟨fun S i _ hj => getLsbD_packState S i hj, unpackState_packState, packState_unpackState⟩

end Sys2Proof
end

section
/-! The hand-over from one pipeline stage to the next (spec/20_memory.md R59). -/

namespace Sys2Proof.Machine

/-- After a STEP before the last stage, `pin` is the `inter` just written, whatever the next `state_in` is (R141, R149). -/
theorem pipelineIn_stepRegisters {s : State} (h : s.ctr ≠ s.cfg.totalStages - 1) (x y : ChaChaState) :
    pipelineIn (stepRegisters s x) y = pipelineOut s x := by
  have hat : ¬ atLastStage s = true := mt (atLastStage_iff s).mp h
  have hctr : (stepRegisters s x).ctr ≠ 0 := by simp [hat]
  rw [pipelineIn_later hctr, stepRegisters_inter, if_neg hat]

/-- Settles O30: recording the outputs of the cycle moves no register. -/
theorem stageHandsItsOutputToTheNext : Obligations.StageHandsItsOutputToTheNext :=
  fun _ x h => ⟨_, rfl, fun y => pipelineIn_stepRegisters h x y⟩

end Sys2Proof.Machine
end

section
/-! CTL and the line of a cycle program (spec/30_encoding.md R73, R80): decoding and encoding undo each other. -/

namespace Sys2Proof

/-- Bit 1 of CTL is `rst` and bit 0 is `enabled` (R73). -/
theorem ctl_bits (p : CycleInput) : p.ctl.getLsbD 1 = p.rst ∧ p.ctl.getLsbD 0 = p.enabled := by
  have h : ∀ rst enabled : Bool, (BitVec.ofBool rst ++ BitVec.ofBool enabled).getLsbD 1 = rst ∧
      (BitVec.ofBool rst ++ BitVec.ofBool enabled).getLsbD 0 = enabled := by decide
  exact h p.rst p.enabled

/-- CTL and `state_in` are all that a cycle samples (R26). -/
theorem input_eq_of_ctl_of_stateIn {p q : CycleInput} (hctl : p.ctl = q.ctl) (hin : p.stateIn = q.stateIn) : p = q := by
  have hrst : p.rst = q.rst := by rw [← (ctl_bits p).1, hctl, (ctl_bits q).1]
  have henabled : p.enabled = q.enabled := by rw [← (ctl_bits p).2, hctl, (ctl_bits q).2]
  cases p
  cases hrst; cases henabled; cases hin
  rfl

/-- The upper and the lower part of a bit vector, put together again. -/
theorem append_extractLsb'_halves {m n : Nat} (x : BitVec (m + n)) : x.extractLsb' n m ++ x.extractLsb' 0 n = x :=
  (BitVec.extractLsb'_append_extractLsb'_eq_extractLsb' (Nat.zero_add n).symm).trans BitVec.extractLsb'_eq_self

/-- A line is CTL on top of the packed `state_in` (R80). -/
theorem toLine_fields (p : CycleInput) :
    p.toLine.extractLsb' 512 2 = p.ctl ∧ p.toLine.extractLsb' 0 512 = packState p.stateIn :=
  ⟨BitVec.extractLsb'_append_eq_left, BitVec.extractLsb'_append_eq_right⟩

/-- The two bits of a line above `state_in` are CTL. -/
theorem ctl_ofLine (line : BitVec 514) : (CycleInput.ofLine line).ctl = line.extractLsb' 512 2 := by
  obtain ⟨hrst, henabled⟩ := ctl_bits (CycleInput.ofLine line)
  apply BitVec.eq_of_getLsbD_eq
  intro k hk
  rw [BitVec.getLsbD_extractLsb', decide_eq_true hk, Bool.true_and]
  obtain rfl | rfl : k = 0 ∨ k = 1 := by omega
  · exact henabled
  · exact hrst

theorem packState_ofLine (line : BitVec 514) : packState (CycleInput.ofLine line).stateIn = line.extractLsb' 0 512 :=
  packState_unpackState _

@[simp] theorem toLine_ofLine (line : BitVec 514) : (CycleInput.ofLine line).toLine = line := by
  rw [CycleInput.toLine, ctl_ofLine, packState_ofLine]
  exact append_extractLsb'_halves (m := 2) (n := 512) line

@[simp] theorem ofLine_toLine (p : CycleInput) : CycleInput.ofLine p.toLine = p := by
  obtain ⟨hctl, hstate⟩ := toLine_fields p
  refine input_eq_of_ctl_of_stateIn ((ctl_ofLine p.toLine).trans hctl) ?_
  exact (congrArg unpackState hstate).trans (unpackState_packState p.stateIn)

@[simp] theorem lineOfTableBits_tableBitsOfLine (line : BitVec 514) : lineOfTableBits (tableBitsOfLine line) = line := by
  have hctl : (tableBitsOfLine line).extractLsb' 0 2 = line.extractLsb' 512 2 := BitVec.extractLsb'_append_eq_right
  have hstate : (tableBitsOfLine line).extractLsb' 2 512 = line.extractLsb' 0 512 := BitVec.extractLsb'_append_eq_left
  rw [lineOfTableBits, hctl, hstate]
  exact append_extractLsb'_halves (m := 2) (n := 512) line

@[simp] theorem tableBitsOfLine_lineOfTableBits (bits : BitVec 514) : tableBitsOfLine (lineOfTableBits bits) = bits := by
  have hctl : (lineOfTableBits bits).extractLsb' 512 2 = bits.extractLsb' 0 2 := BitVec.extractLsb'_append_eq_left
  have hstate : (lineOfTableBits bits).extractLsb' 0 512 = bits.extractLsb' 2 512 := BitVec.extractLsb'_append_eq_right
  rw [tableBitsOfLine, hctl, hstate]
  exact append_extractLsb'_halves (m := 512) (n := 2) bits

/-- The encoder finds the inputs that an action was decoded from. -/
theorem encodeCycle_decodeCycle (p : CycleInput) : encodeCycle (decodeCycle p) = some p := by
  rw [Machine.decodeCycle_eq]
  obtain ⟨rst, enabled, x⟩ := p
  cases rst <;> cases enabled <;> rfl

/-- The inputs that the encoder gives a cycle action select that action. -/
theorem exists_encodeCycle_eq {i : Instr} (h : i.isCycleAction = true) :
    ∃ p, encodeCycle i = some p ∧ decodeCycle p = i := by
  cases i with
  | reset enabled x => exact ⟨⟨true, enabled, x⟩, rfl, Machine.decodeCycle_eq _⟩
  | idle x => exact ⟨⟨false, false, x⟩, rfl, Machine.decodeCycle_eq _⟩
  | step x => exact ⟨⟨false, true, x⟩, rfl, Machine.decodeCycle_eq _⟩
  | _ => cases h

/-- What a cycle's inputs select is a cycle action, and inside its contract (R74). -/
theorem decodeCycle_legal (p : CycleInput) :
    (decodeCycle p).isCycleAction = true ∧ (decodeCycle p).wellFormed = true := by
  rw [Machine.decodeCycle_eq]
  cases p.rst <;> cases p.enabled <;> exact ⟨rfl, rfl⟩

@[simp] theorem decodeLine_toLine (p : CycleInput) : decodeLine p.toLine = decodeCycle p := by
  rw [decodeLine, ofLine_toLine]

@[simp] theorem encode_decodeLine (line : BitVec 514) : encode (decodeLine line) = some line := by
  rw [encode, decodeLine, encodeCycle_decodeCycle, Option.map_some, toLine_ofLine]

/-- No number of 514 bits is rejected (R74, R79). -/
theorem decode_toNat (bits : BitVec 514) : decode 514 bits.toNat = .ok (decodeLine (lineOfTableBits bits)) := by
  have hfits : fitsIn 514 bits.toNat = true := by simp [fitsIn]
  simp [decode, hfits]

@[simp] theorem decode_tableBitsOfLine (line : BitVec 514) :
    decode 514 (tableBitsOfLine line).toNat = .ok (decodeLine line) := by
  rw [decode_toNat, lineOfTableBits_tableBitsOfLine]

@[simp] theorem decodeTableWord_tableBitsOfLine (line : BitVec 514) :
    decodeTableWord 514 (tableBitsOfLine line).toNat = some (decodeLine line) := by
  rw [decodeTableWord, decode_tableBitsOfLine]
  rfl

/-- An operator has no encoding: R73's table has no row for it. -/
theorem encode_eq_none {i : Instr} (h : i.isCycleAction = false) : encode i = none := by
  cases i with
  | reset | idle | step => cases h
  | _ => rfl

/-- Settles O4: a cycle action's line is that of the inputs that select it, and decoding the line finds these inputs. -/
theorem decodingAnEncodedActionGivesItBack : Obligations.DecodingAnEncodedActionGivesItBack := by
  refine ⟨fun i h => ?_, fun i => encode_eq_none⟩
  obtain ⟨p, hencode, hdecode⟩ := exists_encodeCycle_eq h
  have hline : decodeLine p.toLine = i := (decodeLine_toLine p).trans hdecode
  refine ⟨p.toLine, by rw [encode, hencode, Option.map_some], hline, ?_, ?_⟩
  · rw [decode_tableBitsOfLine, hline]
  · rw [decodeTableWord_tableBitsOfLine, hline]

/-- Settles O5: a line is the line of the inputs read from it, and these select one action. -/
theorem everyLineIsOneActionThatEncodesToIt : Obligations.EveryLineIsOneActionThatEncodesToIt := by
  refine ⟨fun line => ?_, tableBitsOfLine_lineOfTableBits⟩
  obtain ⟨haction, hwf⟩ := decodeCycle_legal (CycleInput.ofLine line)
  refine ⟨rfl, rfl, fun k hk => ?_, haction, hwf, encode_decodeLine line, decode_tableBitsOfLine line⟩
  rw [packState_ofLine, BitVec.getLsbD_extractLsb', decide_eq_true hk, Bool.true_and, Nat.zero_add]

/-- Settles O1: R73's words and R71's worked example, decoded. -/
theorem ctlWordsDecodeToTheirActions : Obligations.CtlWordsDecodeToTheirActions := by
  unfold Obligations.CtlWordsDecodeToTheirActions
  decide +kernel

/-- One and only one of R73's match and mask pairs matches a CTL value, that of the action it decodes to. -/
theorem ctlRow_matches_iff (ctl : BitVec 2) :
    ∀ row ∈ ctlTable, ctl &&& row.mask = row.matchBits ↔ row.action = decodeCtl ctl := by
  revert ctl
  decide

/-- Settles O2: the truth table is what the two control inputs say, and the rows are checked for the four CTL values. -/
theorem everyCtlValueSelectsOneAction : Obligations.EveryCtlValueSelectsOneAction := by
  intro p
  obtain ⟨hrst, henabled⟩ := ctl_bits p
  refine ⟨hrst, henabled, fun h => ?_, fun h h' => ?_, fun h h' => ?_, ctlRow_matches_iff p.ctl⟩
  · simp [Machine.decodeCycle_eq, h]
  · simp [Machine.decodeCycle_eq, h, h']
  · simp [Machine.decodeCycle_eq, h, h']

end Sys2Proof
end

section
/-! Construction of an engine (spec/60_exceptions.md R201, R202). -/

namespace Sys2Proof

theorem mem_violations_iff {e : ConfigError} {n r : Nat} : e ∈ Config.violations n r ↔ e.violatedBy n r = true := by
  cases e <;> simp [Config.violations]

/-- The condition each kind stands for in R201's table; of NotADivisor only with `r > 0` (log 15). -/
theorem violatedBy_iff (n r : Nat) :
    (ConfigError.invalidRoundCount.violatedBy n r = true ↔ ¬ (n = 8 ∨ n = 12 ∨ n = 20)) ∧
    (ConfigError.roundsPerCycleOutOfRange.violatedBy n r = true ↔ ¬ (n ≥ r ∧ r > 0)) ∧
    (ConfigError.oddRoundsPerCycle.violatedBy n r = true ↔ r % 2 ≠ 0) ∧
    (r > 0 → (ConfigError.notADivisor.violatedBy n r = true ↔ n % r ≠ 0)) := by
  refine ⟨decide_eq_true_iff, decide_eq_true_iff, decide_eq_true_iff, fun hpos => decide_eq_true_iff.trans ?_⟩
  exact and_iff_right (Nat.ne_of_gt hpos)

/-- A pair that violates no kind of R201 is legal by R76. -/
theorem legalPair_of_violates_none {n r : Nat} (h : ∀ e : ConfigError, ¬ e.violatedBy n r = true) : LegalPair n r := by
  obtain ⟨hcount, hrange, hodd, hdivisor⟩ := violatedBy_iff n r
  have hbounds : n ≥ r ∧ r > 0 := not_not.mp (mt hrange.mpr (h _))
  exact ⟨not_not.mp (mt hcount.mpr (h _)), hbounds, not_not.mp (mt (hdivisor hbounds.2).mpr (h _)),
    not_not.mp (mt hodd.mpr (h _))⟩

/-- The kind reported for an illegal pair is one it violates, whichever the free value picks (R202). -/
theorem reportedError_violatedBy {n r : Nat} (h : ¬ LegalPair n r) : (Config.reportedError n r).violatedBy n r = true := by
  obtain ⟨e, he⟩ : ∃ e : ConfigError, e.violatedBy n r = true := by
    by_contra hnone
    exact h (legalPair_of_violates_none (not_exists.mp hnone))
  have hpick : Config.errorChoice n r % (Config.violations n r).length < (Config.violations n r).length :=
    Nat.mod_lt _ (List.length_pos_of_mem (mem_violations_iff.mpr he))
  rw [← mem_violations_iff, Config.reportedError, List.getD_eq_getElem _ _ hpick]
  exact List.getElem_mem hpick

/-- Settles O7: construction tests R76's conditions, and a pair that fails them violates a kind of R201. -/
theorem illegalConfigurationsGiveNoEngine : Obligations.IllegalConfigurationsGiveNoEngine := by
  refine ⟨fun n r style edge spare => ⟨fun h => ?_, fun h => ?_⟩, violatedBy_iff⟩
  · exact ⟨_, dif_pos h, rfl, rfl, rfl, rfl⟩
  · exact ⟨_, dif_neg h, reportedError_violatedBy h⟩

end Sys2Proof
end

section
/-! A run from RESET to the cycle that shows its result (spec/30_encoding.md R81; spec/41_scheduler.md R156, R158). -/

namespace Sys2Proof.Machine

/-- All the stages of an engine are the double rounds of its round count (R21, R111). -/
theorem stagePipe_iterate_totalStages (c : Config) (S : ChaChaState) :
    (stagePipe c)^[c.totalStages] S = doubleRounds (c.nRounds / 2) S := by
  have hunits : c.totalStages * c.unitsPerStage = c.nRounds / 2 := by
    rw [← c.totalStages_mul_roundsPerCycle, ← c.unitsPerStage_mul_two, ← Nat.mul_assoc, Nat.mul_div_cancel _ Nat.two_pos]
  rw [stagePipe_iterate, hunits]

/-- At the last stage the pipeline completes the double rounds of the captured state; at counter 0, which is the last stage of
a single-stage engine, when the state captured is the one presented (R156, R158). -/
theorem pipelineOut_of_last {s : State} (hinv : s.Inv) (hlast : s.ctr = s.cfg.totalStages - 1) {x : ChaChaState}
    (hheld : s.ctr = 0 → x = s.prev) : pipelineOut s x = doubleRounds (s.cfg.nRounds / 2) s.prev := by
  obtain ⟨hmid, -, -⟩ := hinv
  have hpin : pipelineIn s x = (stagePipe s.cfg)^[s.ctr] s.prev := by
    by_cases h0 : s.ctr = 0
    · rw [pipelineIn_start h0, h0, hheld h0, Function.iterate_zero_apply]
    · rw [pipelineIn_later h0, hmid h0]
  have hsucc : s.ctr.succ = s.cfg.totalStages := by have := s.ctr_lt; omega
  rw [pipelineOut, hpin, ← Function.iterate_succ_apply' (stagePipe s.cfg), hsucc, stagePipe_iterate_totalStages]

/-- At the last stage, with `state_in` as there, a cycle shows `done` and the permutation of the captured state (R143, R144). -/
theorem cycleOutputs_of_last {s : State} (hinv : s.Inv) (hlast : s.ctr = s.cfg.totalStages - 1) {x : ChaChaState}
    (hheld : s.ctr = 0 → x = s.prev) {rst : Bool} (hshow : rst = false ∨ s.cfg.resetStyle = .synchronous) :
    cycleOutputs s rst x = ⟨true, chachaPermute s.prev s.cfg.nRounds⟩ := by
  have hdone : doneFlag s = true := (atLastStage_iff s).mpr hlast
  rw [cycleOutputs_of_shows hshow, stateOut_of_done hdone, pipelineOut_of_last hinv hlast hheld, hdone, chachaPermute]

/-- The inputs of STEP cycles on the states `xs`. -/
def stepInputs (xs : List ChaChaState) : List CycleInput := xs.map fun x => ⟨false, true, x⟩

@[simp] theorem stepInputs_nil : stepInputs [] = [] := rfl

@[simp] theorem stepInputs_cons (x : ChaChaState) (xs : List ChaChaState) :
    stepInputs (x :: xs) = ⟨false, true, x⟩ :: stepInputs xs := rfl

@[simp] theorem Regs.reset_ctr (cfg : Config) : (Regs.reset cfg).ctr = 0 := rfl

/-- The counter after STEPs alone (R156). -/
theorem foldl_stepInputs_ctr (cfg : Config) (r : Regs cfg.totalStages) (xs : List ChaChaState) :
    ((stepInputs xs).foldl (nextRegs cfg) r).ctr = min (r.ctr + xs.length) (cfg.totalStages - 1) := by
  induction xs generalizing r with
  | nil => have := r.inRange; simp; omega
  | cons x xs ih =>
    rw [stepInputs_cons, List.foldl_cons, ih, nextRegs_step_ctr, List.length_cons]
    split <;> omega

/-- Away from counter 0 a STEP captures nothing (R149). -/
theorem foldl_stepInputs_prev (cfg : Config) (r : Regs cfg.totalStages) (h : r.ctr ≠ 0) (xs : List ChaChaState) :
    ((stepInputs xs).foldl (nextRegs cfg) r).prev = r.prev := by
  induction xs generalizing r with
  | nil => rfl
  | cons x xs ih =>
    have hne : (nextRegs cfg r ⟨false, true, x⟩).ctr ≠ 0 := by rw [nextRegs_step_ctr]; split <;> omega
    rw [stepInputs_cons, List.foldl_cons, ih _ hne, nextRegs_step_prev, if_neg h]

/-- The registers that a RESET and then STEPs from the state `S` on leave: the counter is that of the STEPs, held at the last stage,
and `prev` is `S`, unless a later STEP of a single-stage engine has captured another state (R156, R158). -/
theorem runEnd_reset_stepInputs (s : State) (enabled : Bool) (a S : ChaChaState) (ys : List ChaChaState)
    (hsingle : s.cfg.totalStages = 1 → ys = []) :
    (runEnd s (⟨true, enabled, a⟩ :: stepInputs (S :: ys))).ctr = min (ys.length + 1) (s.cfg.totalStages - 1) ∧
    (runEnd s (⟨true, enabled, a⟩ :: stepInputs (S :: ys))).prev = S := by
  rw [runEnd_ctr, runEnd_prev, List.foldl_cons, nextRegs_reset]
  constructor
  · rw [foldl_stepInputs_ctr, Regs.reset_ctr, List.length_cons, Nat.zero_add]
  · have hcaptured : (nextRegs s.cfg (Regs.reset s.cfg) ⟨false, true, S⟩).prev = S := by
      rw [nextRegs_step_prev, if_pos (Regs.reset_ctr _)]
    by_cases h1 : s.cfg.totalStages = 1
    · rw [hsingle h1]
      exact hcaptured
    · have hctr : (nextRegs s.cfg (Regs.reset s.cfg) ⟨false, true, S⟩).ctr ≠ 0 := by
        have := s.cfg.totalStages_pos
        rw [nextRegs_step_ctr, Regs.reset_ctr, if_neg (by omega)]
        exact Nat.succ_ne_zero _
      rw [stepInputs_cons, List.foldl_cons, foldl_stepInputs_prev _ _ hctr, hcaptured]

/-- A RESET, `T - 1` STEPs from the state `S` on (one STEP, if `T` is 1) and one STEP more end with the permutation of `S` on the
outputs, from any state (R81, R156); in a single-stage engine when that STEP presents `S` again (R158). -/
theorem runEnd_run_lastOut (s : State) (enabled : Bool) (a S x : ChaChaState) (ys : List ChaChaState)
    (hys : ys.length = s.cfg.totalStages - 2) (hheld : s.cfg.totalStages = 1 → x = S) :
    (runEnd s (⟨true, enabled, a⟩ :: stepInputs (S :: ys) ++ [⟨false, true, x⟩])).lastOut =
      some ⟨true, chachaPermute S s.cfg.nRounds⟩ := by
  have hpos := s.cfg.totalStages_pos
  have hinv : (runEnd s (⟨true, enabled, a⟩ :: stepInputs (S :: ys))).Inv := by
    rw [runEnd_cons]
    exact runEnd_inv (State.inv_of_reset (cycleWith_triple s ⟨true, enabled, a⟩)) _
  obtain ⟨hctr, hprev⟩ := runEnd_reset_stepInputs s enabled a S ys
    fun h1 => List.eq_nil_of_length_eq_zero (by omega)
  rw [runEnd_append, cycleWith_lastOut, cycleOutputs_of_last hinv _ _ (.inl rfl), hprev, runEnd_cfg]
  · rw [hctr, runEnd_cfg]
    omega
  · intro h0
    rw [hprev]
    exact hheld (by omega)

/-- The inputs of a line repeated, one for each choice. -/
theorem driveProgram_replicate (l : ProgramLine) (xs : List ChaChaState) :
    driveProgram (List.replicate xs.length l) xs = xs.map (lineInput l) := by
  induction xs with
  | nil => rfl
  | cons x xs ih => exact congrArg (lineInput l x :: ·) ih

/-- START comes first: a RESET and the STEP that captures its state (R81). -/
theorem driveProgram_startLines_append (S a b : ChaChaState) (lines : List ProgramLine) (choices : List ChaChaState) :
    driveProgram (startLines S ++ lines) (a :: b :: choices) =
      ⟨true, false, a⟩ :: ⟨false, true, S⟩ :: driveProgram lines choices := rfl

theorem driveProgram_waitLines (xs : List ChaChaState) : driveProgram (waitLines xs.length) xs = stepInputs xs :=
  driveProgram_replicate ⟨.step, .arbitrary⟩ xs

/-- The inputs of RUN: RESET, `T - 1` STEPs from `S` on (one, if `T` is 1), and the STEP that shows the result (R81). -/
theorem driveProgram_runLines (cfg : Config) (S : ChaChaState) (choices : List ChaChaState)
    (h : choices.length = (runLines cfg S).length) :
    ∃ a x ys, driveProgram (runLines cfg S) choices = ⟨true, false, a⟩ :: stepInputs (S :: ys) ++ [⟨false, true, x⟩] ∧
      ys.length = cfg.totalStages - 2 ∧ (cfg.totalStages = 1 → x = S) := by
  have hpos := cfg.totalStages_pos
  by_cases h1 : cfg.totalStages = 1
  · rw [runLines, if_pos h1] at h ⊢
    obtain ⟨a, b, c, rfl⟩ := List.length_eq_three.mp h
    exact ⟨a, S, [], rfl, by simp [h1], fun _ => rfl⟩
  · rw [runLines, if_neg h1] at h ⊢
    obtain _ | ⟨a, _ | ⟨b, xs⟩⟩ := choices
    · simp [startLines] at h
    · simp [startLines] at h
    · have hlen : xs.length = cfg.totalStages - 1 := by simpa [startLines, waitLines] using h
      obtain rfl | ⟨ys, x, rfl⟩ := List.eq_nil_or_concat xs
      · rw [List.length_nil] at hlen
        omega
      · rw [← hlen, driveProgram_startLines_append, driveProgram_waitLines]
        refine ⟨a, x, ys, by simp [stepInputs], ?_, fun h => absurd h h1⟩
        rw [List.length_concat] at hlen
        omega

/-- Settles O22: RUN's inputs are a RESET and `T` STEPs, and the last of these shows the result. -/
theorem pseudoRunShowsThePermutation : Obligations.PseudoRunShowsThePermutation := by
  refine ⟨fun cfg S a b => rfl, fun cfg xs => driveProgram_waitLines xs,
    fun cfg xs => driveProgram_replicate ⟨.idle, .arbitrary⟩ xs,
    fun cfg S => ⟨fun h => if_neg (Nat.ne_of_gt h), fun h => if_pos h⟩, fun s S choices h => ?_⟩
  obtain ⟨a, x, ys, hinputs, hys, hheld⟩ := driveProgram_runLines s.cfg S choices h
  refine ⟨_, runsTo_runEnd _ _, ?_⟩
  rw [expand, hinputs]
  exact runEnd_run_lastOut s false a S x ys hys hheld

end Sys2Proof.Machine
end

section
/-! The word operators (spec/40_primitives.md R100, R101, R102). -/

namespace Sys2Proof.Machine

theorem add32_toNat (x y : Word) : (add32 x y).toNat = (x.toNat + y.toNat) % 2 ^ 32 := BitVec.toNat_add x y

theorem add32_comm (x y : Word) : add32 x y = add32 y x := BitVec.add_comm x y

/-- Settles O33: the sum of words is the sum modulo `2^32`. -/
theorem add32IsTheSumModuloTwoTo32 : Obligations.Add32IsTheSumModuloTwoTo32 := by
  refine fun x y s => ⟨add32 x y, rfl, add32_toNat x y, ?_⟩
  simp only [exec, execAdd32, add32_comm]

/-- Settles O34: exclusive or acts on each bit by itself. -/
theorem xor32DiffersBitByBit : Obligations.Xor32DiffersBitByBit :=
  fun x y _ => ⟨xor32 x y, rfl, fun _ _ => BitVec.getLsbD_xor⟩

theorem rotationInContract_iff (k : Nat) : rotationInContract k = true ↔ 0 < k ∧ k < 32 := decide_eq_true_iff

theorem exec_rotl32_of_contract {k : Nat} (h : rotationInContract k = true) (x : Word) (s : State) :
    exec (.rotl32 x k) s = .next (withOpResult s (.word (rotl32 x k))) := if_pos h

theorem exec_rotl32_of_not_contract {k : Nat} (h : ¬ rotationInContract k = true) (x : Word) (s : State) :
    exec (.rotl32 x k) s = .refused .rotationOutsideContract := if_neg h

/-- R102's two shifts are a rotation. -/
theorem rotl32_eq_rotateLeft {k : Nat} (h : k < 32) (x : Word) : rotl32 x k = x.rotateLeft k := by
  rw [rotl32, BitVec.rotateLeft_def, Nat.mod_eq_of_lt h]

/-- A rotation takes bit `j` from `(j - k) mod 32` (R102). -/
theorem rotl32_getLsbD {j k : Nat} (hj : j < 32) (hk : k < 32) (x : Word) :
    (rotl32 x k).getLsbD j = x.getLsbD ((j + 32 - k) % 32) := by
  rw [rotl32_eq_rotateLeft hk, BitVec.getLsbD_rotateLeft, Nat.mod_eq_of_lt hk]
  by_cases hjk : j < k
  · have hsource : (j + 32 - k) % 32 = 32 - k + j := by omega
    rw [hsource, decide_eq_true hjk, cond_true]
  · have hsource : (j + 32 - k) % 32 = j - k := by omega
    rw [hsource, decide_eq_false hjk, cond_false, decide_eq_true hj, Bool.true_and]

/-- Settles O35: the contract decides between the rotation and the refusal. -/
theorem rotl32MovesEveryBit : Obligations.Rotl32MovesEveryBit := by
  refine ⟨fun x k s hpos hlt => ⟨rotl32 x k, ?_, fun j hj => rotl32_getLsbD hj hlt x⟩, fun x k s h => ?_⟩
  · exact exec_rotl32_of_contract ((rotationInContract_iff k).mpr ⟨hpos, hlt⟩) x s
  · exact exec_rotl32_of_not_contract (mt (rotationInContract_iff k).mp h) x s

end Sys2Proof.Machine
end

section
/-! The quarter round, and sequences of quarter rounds on groups that share no word (spec/40_primitives.md R103 to R107). -/

namespace Sys2Proof

/-- The four word indices of a group. -/
def IndexGroup.indices (g : IndexGroup) : List (Fin 16) := [g.a, g.b, g.c, g.d]

namespace Machine

theorem indicesInContract_iff (a b c d : Nat) :
    indicesInContract a b c d = true ↔ (a < 16 ∧ b < 16 ∧ c < 16 ∧ d < 16) ∧ [a, b, c, d].Nodup := by
  simp [indicesInContract, and_assoc]

theorem exec_quarterRound_of_contract {a b c d : Nat} (h : indicesInContract a b c d = true) (S : ChaChaState) (s : State) :
    exec (.quarterRound S a b c d) s = .next (withOpResult s (.state (quarterRound S (indexGroup a b c d)))) := if_pos h

theorem exec_quarterRound_of_not_contract {a b c d : Nat} (h : ¬ indicesInContract a b c d = true) (S : ChaChaState)
    (s : State) : exec (.quarterRound S a b c d) s = .refused .indicesOutsideContract := if_neg h

/-- Indices below 16 name the group of themselves. -/
@[simp] theorem indexGroup_val (a b c d : Fin 16) : indexGroup a b c d = ⟨a, b, c, d⟩ := by
  simp only [indexGroup, Fin.ofNat_val_eq_self]

/-- Distinct indices below 16 are inside the contract. -/
theorem indicesInContract_of_nodup {g : IndexGroup} (h : g.indices.Nodup) : indicesInContract g.a g.b g.c g.d = true :=
  (indicesInContract_iff _ _ _ _).mpr ⟨⟨g.a.isLt, g.b.isLt, g.c.isLt, g.d.isLt⟩, h.map Fin.val_injective⟩

/-- The words of a group of four distinct indices after a quarter round on it (R103). -/
theorem readGroup_quarterRound_of_nodup {g : IndexGroup} (h : g.indices.Nodup) (S : ChaChaState) :
    readGroup (quarterRound S g) g = quarterWords (readGroup S g) := by
  obtain ⟨⟨hab, hac, had⟩, ⟨hbc, hbd⟩, hcd⟩ : (g.a ≠ g.b ∧ g.a ≠ g.c ∧ g.a ≠ g.d) ∧ (g.b ≠ g.c ∧ g.b ≠ g.d) ∧ g.c ≠ g.d := by
    simpa [IndexGroup.indices] using h
  exact readGroup_quarterRound S g hab hac had hbc hbd hcd

/-- R103's assignments in order, on the words `a`, `b`, `c`, `d`, with the library's rotation. -/
theorem quarterWords_eq (a b c d : Word) : ∃ a1 b1 c1 d1 a2 b2 c2 d2 : Word,
    a1 = a + b ∧ d1 = (d ^^^ a1).rotateLeft 16 ∧ c1 = c + d1 ∧ b1 = (b ^^^ c1).rotateLeft 12 ∧
    a2 = a1 + b1 ∧ d2 = (d1 ^^^ a2).rotateLeft 8 ∧ c2 = c1 + d2 ∧ b2 = (b1 ^^^ c2).rotateLeft 7 ∧
    quarterWords ⟨a, b, c, d⟩ = ⟨a2, b2, c2, d2⟩ :=
  ⟨_, _, _, _, _, _, _, _, rfl, rfl, rfl, rfl, rfl, rfl, rfl, rfl, rfl⟩

/-- Settles O36: the words of the group are R103's, and the contract is that its indices are distinct and below 16. -/
theorem quarterRoundMixesFourWords : Obligations.QuarterRoundMixesFourWords := by
  refine ⟨fun S a b c d s hab hac had hbc hbd hcd => ?_,
    fun S a b c d s h => exec_quarterRound_of_not_contract (mt (indicesInContract_iff a b c d).mp h) S s⟩
  have hnodup : (⟨a, b, c, d⟩ : IndexGroup).indices.Nodup := by simp [IndexGroup.indices, *]
  have hexec := exec_quarterRound_of_contract (indicesInContract_of_nodup hnodup) S s
  rw [indexGroup_val] at hexec
  obtain ⟨a1, b1, c1, d1, a2, b2, c2, d2, ha1, hd1, hc1, hb1, ha2, hd2, hc2, hb2, hwords⟩ :=
    quarterWords_eq (S.get a) (S.get b) (S.get c) (S.get d)
  obtain ⟨ha, hb, hc, hd⟩ := Quad.mk.inj ((readGroup_quarterRound_of_nodup hnodup S).trans hwords)
  exact ⟨_, hexec, ⟨a1, b1, c1, d1, a2, b2, c2, d2, ha1, hd1, hc1, hb1, ha2, hd2, hc2, hb2, ha, hb, hc, hd⟩,
    quarterRound_get_of_ne S ⟨a, b, c, d⟩⟩

theorem quarterRound_get_of_not_mem {g : IndexGroup} {j : Fin 16} (h : j ∉ g.indices) (S : ChaChaState) :
    (quarterRound S g).get j = S.get j := by
  obtain ⟨ha, hb, hc, hd⟩ : j ≠ g.a ∧ j ≠ g.b ∧ j ≠ g.c ∧ j ≠ g.d := by simpa [IndexGroup.indices] using h
  exact quarterRound_get_of_ne S g j ha hb hc hd

theorem readGroup_quarterRound_of_disjoint_indices {g h : IndexGroup} (hdisj : g.indices.Disjoint h.indices)
    (S : ChaChaState) : readGroup (quarterRound S g) h = readGroup S h := by
  refine readGroup_quarterRound_of_disjoint S g h fun i hi => ?_
  simpa [IndexGroup.indices] using List.disjoint_right.mp hdisj hi

/-- A word after a quarter round depends on the words of the group and on itself. -/
theorem quarterRound_get_congr {S R : ChaChaState} {g : IndexGroup} {j : Fin 16} (hgroup : readGroup S g = readGroup R g)
    (hj : S.get j = R.get j) : (quarterRound S g).get j = (quarterRound R g).get j := by
  simp only [quarterRound, writeGroup, setWord_get, hgroup, hj]

theorem quarterRound_quarterRound_get_of_not_mem {g h : IndexGroup} (hdisj : g.indices.Disjoint h.indices) {j : Fin 16}
    (hj : j ∉ h.indices) (S : ChaChaState) :
    (quarterRound (quarterRound S g) h).get j = (quarterRound (quarterRound S h) g).get j := by
  rw [quarterRound_get_of_not_mem hj]
  refine quarterRound_get_congr ?_ (quarterRound_get_of_not_mem hj S).symm
  exact (readGroup_quarterRound_of_disjoint_indices (List.disjoint_symm hdisj) S).symm

/-- Quarter rounds on groups that share no word commute: each word is outside one of the two groups. -/
theorem quarterRound_comm {g h : IndexGroup} (hdisj : g.indices.Disjoint h.indices) (S : ChaChaState) :
    quarterRound (quarterRound S g) h = quarterRound (quarterRound S h) g := by
  refine state_ext fun j => ?_
  by_cases hj : j ∈ h.indices
  · have hj' : j ∉ g.indices := List.disjoint_right.mp hdisj hj
    exact (quarterRound_quarterRound_get_of_not_mem (List.disjoint_symm hdisj) hj' S).symm
  · exact quarterRound_quarterRound_get_of_not_mem hdisj hj S

theorem readGroup_foldl_quarterRound_of_disjoint {gs : List IndexGroup} {g : IndexGroup}
    (hdisj : ∀ h ∈ gs, h.indices.Disjoint g.indices) (S : ChaChaState) :
    readGroup (gs.foldl quarterRound S) g = readGroup S g := by
  induction gs generalizing S with
  | nil => rfl
  | cons h gs ih =>
    rw [List.forall_mem_cons] at hdisj
    rw [List.foldl_cons, ih hdisj.2, readGroup_quarterRound_of_disjoint_indices hdisj.1]

/-- In a sequence of quarter rounds with no index twice, each group is mixed once, from the words at entry. -/
theorem readGroup_foldl_quarterRound {gs : List IndexGroup} (hnodup : (gs.flatMap IndexGroup.indices).Nodup)
    {g : IndexGroup} (hg : g ∈ gs) (S : ChaChaState) :
    readGroup (gs.foldl quarterRound S) g = quarterWords (readGroup S g) := by
  induction gs generalizing S with
  | nil => cases hg
  | cons h gs ih =>
    rw [List.flatMap_cons, List.nodup_append'] at hnodup
    obtain ⟨hhead, htail, hdisj⟩ := hnodup
    have hothers : ∀ k ∈ gs, h.indices.Disjoint k.indices := fun k hk i hi hik =>
      hdisj hi (List.mem_flatMap.mpr ⟨k, hk, hik⟩)
    rw [List.foldl_cons]
    obtain rfl | hmem := List.mem_cons.mp hg
    · rw [readGroup_foldl_quarterRound_of_disjoint fun k hk => List.disjoint_symm (hothers k hk),
        readGroup_quarterRound_of_nodup hhead]
    · rw [ih htail hmem, readGroup_quarterRound_of_disjoint_indices (hothers g hmem)]

/-- The order of quarter rounds with no index twice does not matter. -/
theorem foldl_quarterRound_perm {gs gs' : List IndexGroup} (hnodup : (gs.flatMap IndexGroup.indices).Nodup)
    (hperm : gs'.Perm gs) (S : ChaChaState) : gs'.foldl quarterRound S = gs.foldl quarterRound S := by
  obtain ⟨-, hpairwise⟩ := List.nodup_flatMap.mp hnodup
  have : Std.Symm (Function.onFun List.Disjoint IndexGroup.indices) := ⟨fun _ _ => List.disjoint_symm⟩
  refine (hperm.symm.foldl_eq' (fun g hg h hh R => ?_) S).symm
  obtain rfl | hne := eq_or_ne g h
  · rfl
  · exact quarterRound_comm (hpairwise.forall hg hh hne) R

theorem columnGroups_nodup : (columnGroups.flatMap IndexGroup.indices).Nodup := by decide

theorem diagonalGroups_nodup : (diagonalGroups.flatMap IndexGroup.indices).Nodup := by decide

/-- Settles O37: no index is in two columns, so the quarter rounds neither disturb each other nor need an order. -/
theorem columnRoundMixesEachColumn : Obligations.ColumnRoundMixesEachColumn := fun S _ =>
  ⟨columnRound S, rfl, rfl, fun _ hg => readGroup_foldl_quarterRound columnGroups_nodup hg S,
    fun _ hperm => foldl_quarterRound_perm columnGroups_nodup hperm S⟩

/-- Settles O38: no index is in two diagonals, so the quarter rounds do not disturb each other. -/
theorem diagonalRoundMixesEachDiagonal : Obligations.DiagonalRoundMixesEachDiagonal := fun S _ =>
  ⟨diagonalRound S, rfl, rfl, fun _ hg => readGroup_foldl_quarterRound diagonalGroups_nodup hg S⟩

end Machine
end Sys2Proof
end

section
/-! The double round and the functions built from it, RoundsFinish, and the fixed point `0^512` (spec/40_primitives.md R107 to
R111). -/

namespace Sys2Proof.Machine

theorem quarterWords_zero : quarterWords ⟨0, 0, 0, 0⟩ = ⟨0, 0, 0, 0⟩ := by decide

@[simp] theorem quarterRound_zeroState (g : IndexGroup) : quarterRound zeroState g = zeroState := by
  have hread : readGroup zeroState g = ⟨0, 0, 0, 0⟩ := by simp [readGroup]
  refine state_ext fun j => ?_
  rw [quarterRound, hread, quarterWords_zero]
  simp [writeGroup, setWord_get]

@[simp] theorem doubleRound_zeroState : doubleRound zeroState = zeroState :=
  List.foldl_fixed' quarterRound_zeroState doubleRoundGroups

@[simp] theorem doubleRounds_zeroState (k : Nat) : doubleRounds k zeroState = zeroState :=
  Function.iterate_fixed doubleRound_zeroState k

@[simp] theorem stagePipe_zeroState (c : Config) : stagePipe c zeroState = zeroState :=
  doubleRounds_zeroState c.unitsPerStage

theorem doubleRound_eq (S : ChaChaState) : doubleRound S = diagonalRound (columnRound S) :=
  List.foldl_append

/-- Settles O39: R77's list is the four columns and then the four diagonals. -/
theorem doubleRoundIsColumnThenDiagonal : Obligations.DoubleRoundIsColumnThenDiagonal := by
  refine fun S s => ⟨doubleRound S, rfl, rfl, doubleRound_eq S, ?_⟩
  rintro rfl
  exact doubleRound_zeroState

theorem roundsFinish_comm (m o : ChaChaState) : roundsFinish m o = roundsFinish o m := by
  refine state_ext fun i => ?_
  rw [roundsFinish_get, roundsFinish_get, add32_comm]

@[simp] theorem roundsFinish_zeroState (m : ChaChaState) : roundsFinish m zeroState = m := by
  refine state_ext fun i => ?_
  rw [roundsFinish_get, zeroState_get, add32, add_zero]

/-- Settles O40: RoundsFinish adds each word by itself. -/
theorem roundsFinishAddsWordByWord : Obligations.RoundsFinishAddsWordByWord := by
  refine fun m o s => ⟨roundsFinish m o, rfl, fun i => ?_, ?_, ?_⟩
  · rw [roundsFinish_get, add32_toNat]
  · simp only [exec, execRoundsFinish, roundsFinish_comm]
  · rintro rfl
    exact roundsFinish_zeroState m

/-- Settles O41: a stage of a legal configuration is never empty, and double rounds fix `0^512`. -/
theorem stagePipeChainsItsDoubleRounds : Obligations.StagePipeChainsItsDoubleRounds := by
  refine fun X s => ⟨stagePipe s.cfg X, rfl, rfl, s.cfg.unitsPerStage_pos, ?_⟩
  rintro rfl
  exact stagePipe_zeroState s.cfg

/-- Settles O42: the stages add up their double rounds, and `T * K = n / 2`. -/
theorem stagesComposeToTheRoundCount : Obligations.StagesComposeToTheRoundCount := fun c S =>
  ⟨stagePipe_iterate c c.totalStages S, stagePipe_iterate_totalStages c S⟩

@[simp] theorem chachaPermute_zeroState (n : Nat) : chachaPermute zeroState n = zeroState := by
  rw [chachaPermute, doubleRounds_zeroState, roundsFinish_zeroState]

/-- Settles O43: half of 8, 12 and 20 rounds are 4, 6 and 10 double rounds. -/
theorem chaChaPermuteIsRoundsThenFinish : Obligations.ChaChaPermuteIsRoundsThenFinish :=
  ⟨fun _ _ => ⟨rfl, rfl, rfl⟩, chachaPermute_zeroState⟩

end Sys2Proof.Machine
end

section
/-! Operators have no memory (spec/40_primitives.md R112). -/

namespace Sys2Proof.Machine

/-- For a fixed configuration an operator leaves the same result in every state, or is refused in every state. -/
theorem exec_operator_cases {i : Instr} (h : i.isCycleAction = false) (c : Config) :
    (∃ v, ∀ s : State, s.cfg = c → exec i s = .next (withOpResult s v)) ∨ (∃ r, ∀ s : State, exec i s = .refused r) := by
  cases i with
  | reset | idle | step => cases h
  | rotl32 x k =>
    by_cases hk : rotationInContract k = true
    · exact .inl ⟨_, fun s _ => exec_rotl32_of_contract hk x s⟩
    · exact .inr ⟨_, fun s => exec_rotl32_of_not_contract hk x s⟩
  | quarterRound S a b c d =>
    by_cases hidx : indicesInContract a b c d = true
    · exact .inl ⟨_, fun s _ => exec_quarterRound_of_contract hidx S s⟩
    · exact .inr ⟨_, fun s => exec_quarterRound_of_not_contract hidx S s⟩
  | stagePipe X => exact .inl ⟨.state (stagePipe c X), fun s hcfg => by rw [← hcfg]; rfl⟩
  | _ => exact .inl ⟨_, fun _ _ => rfl⟩

/-- Settles O44: an operator that answers is one that leaves the same result in every state. -/
theorem operatorsArePure : Obligations.OperatorsArePure := by
  intro i s t hop h
  obtain ⟨v, hresult⟩ | ⟨r, hrefused⟩ := exec_operator_cases hop s.cfg
  · obtain rfl : withOpResult s v = t := Host.Outcome.next.inj ((hresult s rfl).symm.trans h)
    exact ⟨rfl, hresult⟩
  · rw [hrefused] at h
    cases h

end Sys2Proof.Machine
end

section
/-! One cycle in equations (spec/41_scheduler.md R140 to R151): what each action answers, and what the outputs read. -/

namespace Sys2Proof.Machine

/-- R151's next-state function on the values of the registers. -/
theorem nextRegs_triple (cfg : Config) (r : Regs cfg.totalStages) (p : CycleInput) :
    (nextRegs cfg r p).triple =
      if p.rst then (0, zeroState, zeroState)
      else if p.enabled then
        (if r.ctr = cfg.totalStages - 1 then r.ctr else r.ctr + 1,
         if r.ctr = cfg.totalStages - 1 then r.inter else stagePipe cfg (if r.ctr = 0 then p.stateIn else r.inter),
         if r.ctr = 0 then p.stateIn else r.prev)
      else r.triple := by
  obtain ⟨rst, enabled, x⟩ := p
  cases rst
  · cases enabled
    · rfl
    · exact nextRegs_step_triple cfg r x
  · rfl

/-- The register writes of STEP are R151's next-state function, and STEP writes nothing else. -/
theorem stepRegisters_eq (s : State) (x : ChaChaState) :
    stepRegisters s x = { s with regs := nextRegs s.cfg s.regs ⟨false, true, x⟩ } :=
  State.eq_of_parts rfl (stepRegisters_triple s x) rfl rfl rfl rfl

/-- A cycle takes the registers to R151's next state and records its outputs, and writes nothing else. -/
theorem cycleEnd_eq (s : State) (p : CycleInput) :
    cycleEnd s p =
      { s with regs := nextRegs s.cfg s.regs p, lastOut := some (cycleOutputs s p.rst p.stateIn) } := by
  obtain ⟨rst, enabled, x⟩ := p
  cases rst
  · cases enabled
    · rfl
    · exact congrArg (recordOutputs s · false x) (stepRegisters_eq s x)
  · rfl

/-- The driver moves on at the start of a cycle, which reads nothing that this writes. -/
theorem cycleEnd_consumeInput (s : State) (p : CycleInput) :
    cycleEnd (consumeInput s) p =
      { s with
        regs := nextRegs s.cfg s.regs p
        pending := s.pending.tail
        cycle := s.cycle + 1
        lastOut := some (cycleOutputs s p.rst p.stateIn) } := by
  rw [cycleEnd_eq, cycleOutputs_congr (consumeInput_cfg s) rfl]
  rfl

/-- A step in one equation (R140, R151). -/
theorem step_eq_next (s : State) :
    step s =
      .next { s with
        regs := nextRegs s.cfg s.regs (currentInput s)
        pending := s.pending.tail
        cycle := s.cycle + 1
        lastOut := some (cycleOutputs s (currentInput s).rst (currentInput s).stateIn) } := by
  rw [step_eq, cycleEnd_consumeInput]

theorem step_presentInput (s : State) (p : CycleInput) :
    step (presentInput s p) =
      .next { s with
        regs := nextRegs s.cfg s.regs p
        pending := s.pending.tail
        cycle := s.cycle + 1
        lastOut := some (cycleOutputs s p.rst p.stateIn) } := by
  rw [← cycleEnd_consumeInput]
  exact step_eq (presentInput s p)

theorem exec_reset (e : Bool) (x : ChaChaState) (s : State) :
    exec (.reset e x) s = .next { s with regs := Regs.reset s.cfg, lastOut := some (cycleOutputs s true x) } := rfl

theorem exec_idle (x : ChaChaState) (s : State) :
    exec (.idle x) s = .next { s with lastOut := some ⟨doneFlag s, stateOut s x⟩ } := by
  rw [← cycleOutputs_of_shows (.inl rfl)]
  rfl

theorem exec_step (x : ChaChaState) (s : State) :
    exec (.step x) s =
      .next { s with regs := nextRegs s.cfg s.regs ⟨false, true, x⟩, lastOut := some ⟨doneFlag s, stateOut s x⟩ } := by
  rw [← cycleOutputs_of_shows (.inl rfl), ← cycleEnd_eq s ⟨false, true, x⟩]
  rfl

theorem doneFlag_iff (s : State) : doneFlag s = true ↔ s.ctr = s.cfg.totalStages - 1 := atLastStage_iff s

/-- The reset state shows `done` in a single-stage engine alone. -/
theorem doneFlag_clearRegisters_iff (s : State) : doneFlag (clearRegisters s) = true ↔ s.cfg.totalStages = 1 := by
  have hpos := s.cfg.totalStages_pos
  rw [doneFlag_iff, clearRegisters_ctr, clearRegisters_cfg]
  omega

theorem State.ctr_of_single {s : State} (h : s.cfg.totalStages = 1) : s.ctr = 0 := by
  have := s.ctr_lt
  omega

/-- Away from counter 0 `state_out` does not read `state_in` (R141). -/
theorem stateOut_congr {s : State} {x y : ChaChaState} (h : s.ctr = 0 → x = y) : stateOut s x = stateOut s y := by
  by_cases h0 : s.ctr = 0
  · rw [h h0]
  · simp [stateOut, pipelineOut, pipelineIn_later h0]

/-- Before the last stage every cycle shows nothing: the reset state, which an asynchronous reset cycle shows, is before the last
stage too (R157). -/
theorem cycleOutputs_of_before_last {s : State} (h : s.ctr < s.cfg.totalStages - 1) (rst : Bool) (x : ChaChaState) :
    cycleOutputs s rst x = ⟨false, zeroState⟩ := by
  have hdone : doneFlag (outputRegisters s rst) = false := by
    rw [outputRegisters, Bool.eq_false_iff]
    split
    · exact mt (doneFlag_clearRegisters_iff s).mp (by omega)
    · exact mt (doneFlag_iff s).mp (by omega)
  rw [cycleOutputs, hdone, stateOut_of_not_done hdone]

/-- `done` reads the counter, the configuration and `rst`, no data (R143). -/
theorem cycleOutputs_done_congr {s s' : State} (hcfg : s.cfg = s'.cfg) (hctr : s.ctr = s'.ctr) (rst : Bool)
    (x x' : ChaChaState) : (cycleOutputs s rst x).done = (cycleOutputs s' rst x').done := by
  simp only [cycleOutputs, outputRegisters, doneFlag, atLastStage, hcfg]
  split <;> simp [hcfg, hctr]

/-- Away from counter 0 no cycle shows anything of `state_in`: an engine with such a counter has more than one stage, so that an
asynchronous reset cycle shows nothing (R154). -/
theorem cycleOutputs_of_started {s : State} (h : s.ctr ≠ 0) (rst : Bool) (x y : ChaChaState) :
    cycleOutputs s rst x = cycleOutputs s rst y := by
  have hout : stateOut (outputRegisters s rst) x = stateOut (outputRegisters s rst) y := by
    rw [outputRegisters]
    split
    · have hdone : doneFlag (clearRegisters s) = false :=
        Bool.eq_false_iff.mpr (mt (doneFlag_clearRegisters_iff s).mp (mt State.ctr_of_single h))
      rw [stateOut_of_not_done hdone, stateOut_of_not_done hdone]
    · exact stateOut_congr fun h0 => absurd h0 h
  rw [cycleOutputs, cycleOutputs, hout]

/-- Away from counter 0 no register takes anything from `state_in` (R154). -/
theorem nextRegs_of_started {cfg : Config} {r : Regs cfg.totalStages} (h : r.ctr ≠ 0) (rst enabled : Bool)
    (x y : ChaChaState) : nextRegs cfg r ⟨rst, enabled, x⟩ = nextRegs cfg r ⟨rst, enabled, y⟩ :=
  Regs.triple_inj.mp (by simp only [nextRegs_triple, if_neg h])

/-- Every cycle of a single-stage engine shows `done` (R158). -/
theorem cycleOutputs_done_of_single {s : State} (h : s.cfg.totalStages = 1) (rst : Bool) (x : ChaChaState) :
    (cycleOutputs s rst x).done = true := by
  have hcfg : (outputRegisters s rst).cfg = s.cfg := by rw [outputRegisters]; split <;> rfl
  have hlt := (outputRegisters s rst).ctr_lt
  refine (doneFlag_iff _).mpr ?_
  rw [hcfg] at hlt ⊢
  omega

/-- A single-stage engine at the input it captured shows the permutation of it, whatever `inter` is (R158). -/
theorem cycleOutputs_of_single {s : State} (h : s.cfg.totalStages = 1) {x : ChaChaState} (hheld : x = s.prev) {rst : Bool}
    (hshow : rst = false ∨ s.cfg.resetStyle = .synchronous) :
    cycleOutputs s rst x = ⟨true, chachaPermute x s.cfg.nRounds⟩ := by
  have h0 : s.ctr = 0 := State.ctr_of_single h
  have hdone : doneFlag s = true := (doneFlag_iff s).mpr (by omega)
  have hpipe : pipelineOut s x = doubleRounds (s.cfg.nRounds / 2) x := by
    rw [← stagePipe_iterate_totalStages, h, pipelineOut, pipelineIn_start h0, Function.iterate_one]
  rw [cycleOutputs_of_shows hshow, stateOut_of_done hdone, hpipe, hdone, chachaPermute, hheld]

/-- At the last stage of a multi-stage engine the outputs are those of the registers alone (R144). -/
theorem outputs_of_terminal {s : State} (hmulti : 1 < s.cfg.totalStages) (hlast : s.ctr = s.cfg.totalStages - 1)
    (x : ChaChaState) : doneFlag s = true ∧ stateOut s x = roundsFinish (stagePipe s.cfg s.inter) s.prev := by
  have hdone := (doneFlag_iff s).mpr hlast
  refine ⟨hdone, ?_⟩
  rw [stateOut_of_done hdone, pipelineOut, pipelineIn_later (by omega)]

end Sys2Proof.Machine
end

section
/-! The scheduler over runs (spec/41_scheduler.md R152 to R155): what the registers keep while no RESET comes. -/

namespace Sys2Proof.Machine

variable {cfg : Config} {r : Regs cfg.totalStages}

theorem nextRegs_of_isIdle {p : CycleInput} (h : isIdle p = true) : nextRegs cfg r p = r := by
  obtain ⟨hrst, henabled⟩ : p.rst = false ∧ p.enabled = false := by simpa [isIdle] using h
  simp [nextRegs, hrst, henabled]

/-- Without RESET a started engine stays started and keeps the input it captured (R155). -/
theorem nextRegs_started {p : CycleInput} (hrst : p.rst = false) (h : r.ctr ≠ 0) :
    (nextRegs cfg r p).ctr ≠ 0 ∧ (nextRegs cfg r p).prev = r.prev := by
  obtain ⟨rst, enabled, x⟩ := p
  subst hrst
  cases enabled
  · exact ⟨h, rfl⟩
  · rw [nextRegs_step_ctr, nextRegs_step_prev, if_neg h]
    refine ⟨?_, rfl⟩
    split <;> omega

/-- Without RESET the counter and `inter` hold at the last stage (R152). -/
theorem nextRegs_last {p : CycleInput} (hrst : p.rst = false) (h : r.ctr = cfg.totalStages - 1) :
    (nextRegs cfg r p).ctr = r.ctr ∧ (nextRegs cfg r p).inter = r.inter := by
  obtain ⟨rst, enabled, x⟩ := p
  subst hrst
  cases enabled
  · exact ⟨rfl, rfl⟩
  · rw [nextRegs_step_ctr, nextRegs_step_inter, if_pos h, if_pos h]
    exact ⟨rfl, rfl⟩

/-- Without RESET the last stage of a multi-stage engine holds every register (R152). -/
theorem nextRegs_terminal {p : CycleInput} (hrst : p.rst = false) (hmulti : 1 < cfg.totalStages)
    (h : r.ctr = cfg.totalStages - 1) : nextRegs cfg r p = r := by
  obtain ⟨hctr, hinter⟩ := nextRegs_last hrst h
  obtain ⟨-, hprev⟩ := nextRegs_started hrst (by omega : r.ctr ≠ 0)
  exact Regs.triple_inj.mp (by rw [Regs.triple, hctr, hinter, hprev, Regs.triple])

/-- Dropping the IDLEs drops cycles that write no register (R153). -/
theorem foldl_nextRegs_filter_not_isIdle (ins : List CycleInput) :
    (ins.filter fun p => !isIdle p).foldl (nextRegs cfg) r = ins.foldl (nextRegs cfg) r := by
  induction ins generalizing r with
  | nil => rfl
  | cons p ins ih =>
    by_cases h : isIdle p = true
    · rw [List.filter_cons_of_neg (by simp [h]), List.foldl_cons, nextRegs_of_isIdle h, ih]
    · rw [List.filter_cons_of_pos (by simp [h]), List.foldl_cons, List.foldl_cons, ih]

theorem foldl_nextRegs_started {ins : List CycleInput} (hins : ∀ p ∈ ins, p.rst = false) (h : r.ctr ≠ 0) :
    (ins.foldl (nextRegs cfg) r).ctr ≠ 0 ∧ (ins.foldl (nextRegs cfg) r).prev = r.prev := by
  induction ins generalizing r with
  | nil => exact ⟨h, rfl⟩
  | cons p ins ih =>
    obtain ⟨hp, hins⟩ := List.forall_mem_cons.mp hins
    obtain ⟨hctr, hprev⟩ := nextRegs_started hp h
    rw [List.foldl_cons, ← hprev]
    exact ih hins hctr

theorem foldl_nextRegs_terminal {ins : List CycleInput} (hins : ∀ p ∈ ins, p.rst = false) (hmulti : 1 < cfg.totalStages)
    (h : r.ctr = cfg.totalStages - 1) : ins.foldl (nextRegs cfg) r = r := by
  induction ins with
  | nil => rfl
  | cons p ins ih =>
    obtain ⟨hp, hins⟩ := List.forall_mem_cons.mp hins
    rw [List.foldl_cons, nextRegs_terminal hp hmulti h, ih hins]

theorem runEnd_triple_of_terminal {s : State} {ins : List CycleInput} (hins : ∀ p ∈ ins, p.rst = false)
    (hmulti : 1 < s.cfg.totalStages) (hlast : s.ctr = s.cfg.totalStages - 1) : (runEnd s ins).triple = s.triple := by
  rw [runEnd_triple, foldl_nextRegs_terminal hins hmulti hlast, State.triple]

theorem runEnd_append_lastOut (s : State) (ins : List CycleInput) (p : CycleInput) :
    (runEnd s (ins ++ [p])).lastOut = some (cycleOutputs (runEnd s ins) p.rst p.stateIn) := by
  rw [runEnd_append, cycleWith_lastOut]

/-- The counter after a cycle, from the counter before it and CTL alone, in an engine with `stages` stages (R151). -/
def counterAfter (stages ctr : Nat) (ctl : BitVec 2) : Nat :=
  if ctl.getLsbD 1 then 0 else if ctl.getLsbD 0 then (if ctr = stages - 1 then ctr else ctr + 1) else ctr

theorem nextRegs_ctr (p : CycleInput) : (nextRegs cfg r p).ctr = counterAfter cfg.totalStages r.ctr p.ctl := by
  obtain ⟨hrst, henabled⟩ := ctl_bits p
  rw [counterAfter, hrst, henabled]
  obtain ⟨rst, enabled, x⟩ := p
  cases rst
  · cases enabled
    · rfl
    · exact nextRegs_step_ctr cfg r x
  · rfl

/-- The counter over a run follows CTL alone. -/
theorem foldl_nextRegs_ctr (ins : List CycleInput) :
    (ins.foldl (nextRegs cfg) r).ctr = (ins.map CycleInput.ctl).foldl (counterAfter cfg.totalStages) r.ctr := by
  rw [List.foldl_map]
  exact (List.foldl_hom Regs.ctr fun r p => (nextRegs_ctr (r := r) p).symm).symm

/-- Two engines with one configuration stay at the same counter while they are driven with the same CTL. -/
theorem runEnd_ctr_congr {s s' : State} {ins ins' : List CycleInput} (hcfg : s.cfg = s'.cfg) (hctr : s.ctr = s'.ctr)
    (hctl : ins.map CycleInput.ctl = ins'.map CycleInput.ctl) : (runEnd s ins).ctr = (runEnd s' ins').ctr := by
  rw [runEnd_ctr, runEnd_ctr, foldl_nextRegs_ctr, foldl_nextRegs_ctr, hctl, State.regs_ctr, State.regs_ctr, hctr, hcfg]

end Sys2Proof.Machine
end

section
/-! Where the inputs of a cycle come from (spec/10_state.md R26): the driver's queue, the free value, a word of the opcode table. -/

namespace Sys2Proof.Machine

/-- With `p` first in the queue, a step reads `p` and takes it off. -/
theorem inputs_of_pending {s : State} {p : CycleInput} {rest : List CycleInput} (h : s.pending = p :: rest) :
    currentInput s = p ∧ consumeInput s = { s with pending := rest, cycle := s.cycle + 1 } := by
  simp [currentInput, consumeInput, h]

/-- With an empty queue a step reads the free value of the cycle (log 3). -/
theorem inputs_of_nothing_pending {s : State} (h : s.pending = []) :
    currentInput s = CycleInput.ofLine (Config.driverLine s.cycle) ∧ consumeInput s = { s with cycle := s.cycle + 1 } := by
  simp [currentInput, consumeInput, h]

/-- A word that decodes has no bit above its width, and decodes as the line of its bits. -/
theorem decode_eq_ok {nbits w : Nat} {i : Instr} (h : decode nbits w = .ok i) :
    (BitVec.ofNat nbits w).toNat = w ∧ decodeLine (lineOfTableBits (BitVec.ofNat 514 w)) = i := by
  rw [decode] at h
  split at h
  · cases h
  · next hfits =>
    split at h
    · cases h
    · exact ⟨by simpa [fitsIn] using hfits, Except.ok.inj h⟩

end Sys2Proof.Machine
end

section
/-! The scheduler's obligations (spec/41_scheduler.md). -/

namespace Sys2Proof.Machine

/-- Settles O11: a step ends a cycle, whose registers are R151's function. -/
theorem stepIsTheNextStateFunction : Obligations.StepIsTheNextStateFunction := by
  intro s
  refine ⟨_, step_eq_next s, ?_, rfl, State.ctr_lt _, rfl, rfl, rfl, rfl⟩
  exact (nextRegs_triple s.cfg s.regs (currentInput s)).trans (by simp only [ite_not]; rfl)

/-- Settles O12: by what RESET answers; STEP and IDLE keep a counter away from 0, and the operators keep the registers. -/
theorem resetClearsEveryRegister : Obligations.ResetClearsEveryRegister := by
  constructor
  · intro e x s
    exact ⟨_, exec_reset e x s, rfl, rfl, doneFlag_clearRegisters_iff s,
      fun hsync => congrArg some (cycleOutputs_of_shows (.inr hsync) x), fun e' x' => ⟨_, exec_reset e' x' _, rfl⟩⟩
  · intro i s t h hne h0
    obtain ⟨e, x, rfl, -⟩ | ⟨_, -, rfl⟩ | ⟨x, -, rfl⟩ | ⟨-, _, rfl⟩ := exec_next_cases h
    · exact ⟨e, x, rfl⟩
    · exact absurd h0 hne
    · rw [recordOutputs_ctr, stepRegisters_eq] at h0
      exact absurd h0 (nextRegs_started (p := ⟨false, true, x⟩) rfl hne).1
    · exact absurd h0 hne

/-- Settles O14: R151's function on a STEP, case by case. -/
theorem stepFollowsItsFourCases : Obligations.StepFollowsItsFourCases := by
  intro x s
  have htriple := nextRegs_step_triple s.cfg s.regs x
  rw [State.regs_ctr, State.regs_inter, State.regs_prev] at htriple
  refine ⟨_, exec_step x s, fun h0 hmulti => ?_, fun hpos hlt => ?_, fun hlast hmulti => ?_, fun h0 hsingle => ?_,
    Nat.le_sub_one_of_lt (Regs.inRange _)⟩
  · rw [htriple, if_neg (by omega), if_neg (by omega), if_pos h0, if_pos h0, h0]
  · rw [htriple, if_neg (by omega), if_neg (by omega), if_neg (by omega), if_neg (by omega)]
  · exact nextRegs_terminal rfl hmulti hlast
  · rw [htriple, if_pos (by omega), if_pos (by omega), if_pos h0, h0]

/-- Settles O21: the history gives the counter and the captured input, and the invariant what the last stage shows. -/
theorem runResultIsTheReferencePermutation : Obligations.RunResultIsTheReferencePermutation := by
  intro cfg ins p hshow
  have hinv : (runEnd (State.powerOn cfg) ins).Inv := runEnd_inv (State.inv_of_reset rfl) ins
  have hcfg : (runEnd (State.powerOn cfg) ins).cfg = cfg := runEnd_cfg _ ins
  have hctr := runEnd_powerOn_ctr cfg ins
  have hprev := firstStepped_sinceReset (cfg := cfg) (ins := ins)
  have hheld := runEnd_powerOn_prev_of_single (cfg := cfg) (ins := ins)
  refine ⟨_, runsTo_runEnd _ _, ?_⟩
  rw [runEnd_append_lastOut]
  generalize runEnd (State.powerOn cfg) ins = s at hinv hcfg hctr hprev hheld
  subst hcfg
  refine ⟨fun S hmulti hfirst hcount => ?_, fun hcount => ?_, fun hsingle hlast => ?_⟩
  · have hne : s.ctr ≠ 0 := by omega
    obtain rfl : s.prev = S := by simpa [hfirst, hne] using (hprev hmulti).symm
    rw [cycleOutputs_of_last hinv (by omega) (fun h0 => absurd h0 hne) hshow]
  · rw [cycleOutputs_of_before_last (by omega)]
  · have hin : p.stateIn = s.prev := by rw [hheld hsingle, hlast, Option.getD_some]
    rw [cycleOutputs_of_single hsingle hin hshow]

/-- Settles O23: IDLEs write no register. -/
theorem idleCyclesOnlyDelayARun : Obligations.IdleCyclesOnlyDelayARun := fun s ins =>
  ⟨_, _, runsTo_runEnd s ins, runsTo_runEnd s _, by rw [runEnd_triple, runEnd_triple, foldl_nextRegs_filter_not_isIdle]⟩

/-- Settles O24: neither the registers nor the outputs of the cycle read `state_in`. -/
theorem newInputMidRunIsIgnored : Obligations.NewInputMidRunIsIgnored := by
  intro s rst enabled x y h
  rw [step_presentInput, step_presentInput, nextRegs_of_started (r := s.regs) h rst enabled x y,
    cycleOutputs_of_started h rst x y]

/-- Settles O25: what a started engine keeps, over a run, and the capturing case of STEP. -/
theorem engineIsOneShotUntilReset : Obligations.EngineIsOneShotUntilReset := by
  refine ⟨fun s ins h hins => ⟨_, runsTo_runEnd s ins, ?_⟩, fun s x h0 => ⟨_, exec_step x s, ?_, fun hsingle => ?_⟩⟩
  · rw [runEnd_ctr, runEnd_prev]
    exact foldl_nextRegs_started hins h
  · exact (nextRegs_step_prev s.cfg s.regs x).trans (if_pos h0)
  · exact Nat.lt_one_iff.mp (hsingle ▸ Regs.inRange _)

/-- Settles O26: a run keeps the registers, so that its last cycle shows their outputs. -/
theorem terminalStageHolds : Obligations.TerminalStageHolds := by
  constructor
  · intro s ins hmulti hlast hins
    refine ⟨_, runsTo_runEnd s ins, runEnd_triple_of_terminal hins hmulti hlast, fun hne => ?_⟩
    obtain rfl | ⟨init, p, rfl⟩ := List.eq_nil_or_concat' ins
    · exact absurd rfl hne
    · obtain ⟨hinit, hp⟩ := List.forall_mem_append.mp hins
      obtain ⟨hdone, hout⟩ := outputs_of_terminal hmulti hlast p.stateIn
      rw [runEnd_append_lastOut, cycleOutputs_congr (runEnd_cfg s init) (runEnd_triple_of_terminal hinit hmulti hlast),
        cycleOutputs_of_shows (.inl (hp p (List.mem_singleton_self p))), hdone, hout]
  · exact fun s hlast hrst => ⟨_, step_eq_next s, nextRegs_last hrst hlast⟩

/-- Settles O28: the one stage is the last one, and shows the permutation of a captured input that is presented. -/
theorem singleStageEngineShowsThePermutationOfAHeldInput :
    Obligations.SingleStageEngineShowsThePermutationOfAHeldInput := by
  constructor
  · exact fun s hsingle => ⟨State.ctr_of_single hsingle, _, _, step_eq_next s, State.ctr_of_single hsingle, rfl,
      cycleOutputs_done_of_single hsingle _ _,
      fun hshow hheld => by rw [cycleOutputs_of_single hsingle hheld hshow, hheld]⟩
  · rintro s S p hsingle hshow rfl
    have hcfg := runEnd_cfg s [⟨false, true, p.stateIn⟩]
    have hprev : p.stateIn = (runEnd s [⟨false, true, p.stateIn⟩]).prev := by
      rw [runEnd_prev]
      exact ((nextRegs_step_prev s.cfg s.regs p.stateIn).trans (if_pos (State.ctr_of_single hsingle))).symm
    refine ⟨_, runsTo_runEnd s ([⟨false, true, p.stateIn⟩] ++ [p]), ?_⟩
    rw [← hcfg] at hsingle hshow ⊢
    rw [runEnd_append_lastOut, cycleOutputs_of_single hsingle hprev hshow]

/-- Settles O29: the counter follows CTL alone, and `done` the counter. -/
theorem progressNeverDependsOnData : Obligations.ProgressNeverDependsOnData := by
  intro s s' ins ins' hcfg hctr hctl
  refine ⟨_, _, runsTo_runEnd s ins, runsTo_runEnd s' ins', runEnd_ctr_congr hcfg hctr hctl, fun hne => ?_⟩
  obtain rfl | ⟨init, p, rfl⟩ := List.eq_nil_or_concat' ins
  · exact absurd rfl hne
  obtain rfl | ⟨init', p', rfl⟩ := List.eq_nil_or_concat' ins'
  · simp at hctl
  obtain ⟨hinit, hp⟩ : init.map CycleInput.ctl = init'.map CycleInput.ctl ∧ p.ctl = p'.ctl := by
    simpa using hctl
  have hrst : p.rst = p'.rst := by rw [← (ctl_bits p).1, hp, (ctl_bits p').1]
  rw [runEnd_append_lastOut, runEnd_append_lastOut, hrst]
  exact congrArg some (cycleOutputs_done_congr (by rw [runEnd_cfg, runEnd_cfg, hcfg]) (runEnd_ctr_congr hcfg hctr hinit) _ _ _)

/-- Settles O9: by where the inputs of the cycle come from. -/
theorem stepRunsTheDecodedAction : Obligations.StepRunsTheDecodedAction := by
  refine ⟨fun s p rest h => ?_, fun s h => ?_, fun s line => rfl, fun s nbits w i h => ?_⟩
  · obtain ⟨hinput, hconsume⟩ := inputs_of_pending h
    rw [step, hinput, hconsume]
  · obtain ⟨hinput, hconsume⟩ := inputs_of_nothing_pending h
    rw [step, hinput, hconsume]
  · obtain ⟨hword, hline⟩ := decode_eq_ok h
    rw [State.withFetchWord, hword, ← hline]
    rfl

/-- Settles O13: by what IDLE answers and what the last stage shows. -/
theorem idleHoldsEveryRegister : Obligations.IdleHoldsEveryRegister :=
  ⟨exec_idle, fun x _ hmulti hlast => outputs_of_terminal hmulti hlast x⟩

/-- Settles O15: a cycle that shows the registers shows R143's and R144's functions of them. -/
theorem outputsOfEveryCycle : Obligations.OutputsOfEveryCycle := fun s hshow =>
  ⟨_, _, step_eq_next s, congrArg some (cycleOutputs_of_shows hshow _), doneFlag_iff s,
    fun hdone => stateOut_of_done hdone _, fun hdone => stateOut_of_not_done hdone _⟩

/-- Settles O27: by what a cycle before the last stage shows. -/
theorem nothingShowsBeforeCompletion : Obligations.NothingShowsBeforeCompletion := fun s h =>
  ⟨_, step_eq_next s, congrArg some (cycleOutputs_of_before_last h _ _)⟩

/-- Settles O31: the outputs are functions of the registers, the configuration and, at counter 0, of `state_in`. -/
theorem outputsHoldNoStateOfTheirOwn : Obligations.OutputsHoldNoStateOfTheirOwn := by
  intro s s' p p' hcfg hregs hin hshow hshow'
  have hsame : SameDatapath s s' := ⟨congrArg Config.totalStages hcfg, congrArg Config.unitsPerStage hcfg, hregs⟩
  refine ⟨_, _, step_presentInput s p, step_presentInput s' p', congrArg some ?_⟩
  rw [cycleOutputs_of_shows hshow, cycleOutputs_of_shows hshow', hsame.doneFlag_eq, stateOut_congr hin, hsame.stateOut_eq]

end Sys2Proof.Machine
end

section
/-! No exception, no trap, and no refusal inside an operator's contract (spec/60_exceptions.md R200). -/

namespace Sys2Proof.Machine

/-- A well-formed instruction answers a next state; only the rotation and the quarter round need their contract for it. -/
theorem exists_exec_eq_next {i : Instr} (h : i.wellFormed = true) (s : State) : ∃ t, exec i s = .next t := by
  cases i with
  | rotl32 x k => exact ⟨_, exec_rotl32_of_contract h x s⟩
  | quarterRound S a b c d => exact ⟨_, exec_quarterRound_of_contract h S s⟩
  | _ => exact ⟨_, rfl⟩

/-- An ill-formed instruction is a rotation or a quarter round outside its contract, and is refused (U3, U4). -/
theorem exists_exec_eq_refused {i : Instr} (h : i.wellFormed = false) (s : State) : ∃ r, exec i s = .refused r := by
  cases i with
  | rotl32 x k => exact ⟨_, exec_rotl32_of_not_contract (ne_true_of_eq_false h) x s⟩
  | quarterRound S a b c d => exact ⟨_, exec_quarterRound_of_not_contract (ne_true_of_eq_false h) S s⟩
  | _ => cases h

/-- Settles O10: a step runs a cycle action, and what an instruction answers follows its contract. -/
theorem nothingStopsTheEngine : Obligations.NothingStopsTheEngine :=
  ⟨fun s => ⟨_, step_eq s⟩, fun _ s h => exists_exec_eq_next h s, fun _ s h => exists_exec_eq_refused h s⟩

end Sys2Proof.Machine
end

section
/-! Power-on, the two reset styles, and the reset cycle that ends a run (spec/70_reset_and_hazards.md R230, R232, R243). -/

namespace Sys2Proof.Machine

/-- Changing the reset style leaves `T`, `K` and the registers. -/
theorem sameDatapath_resetStyle (s : State) (style : ResetStyle) :
    SameDatapath { s with cfg := { s.cfg with resetStyle := style } } s :=
  ⟨rfl, rfl, rfl⟩

/-- Outside a reset cycle the outputs read the datapath alone, and not the reset style (R230). -/
theorem SameDatapath.cycleOutputs_eq_of_not_rst {s s' : State} (h : SameDatapath s s') {rst : Bool} (hrst : rst = false)
    (x : ChaChaState) : cycleOutputs s rst x = cycleOutputs s' rst x := by
  rw [cycleOutputs_of_shows (.inl hrst), cycleOutputs_of_shows (.inl hrst), h.doneFlag_eq, h.stateOut_eq]

/-- With `rst` the next registers are the reset registers, whatever `enabled` and `state_in` are (R147, log 5). -/
theorem nextRegs_of_rst {cfg : Config} {r : Regs cfg.totalStages} {p : CycleInput} (h : p.rst = true) :
    nextRegs cfg r p = Regs.reset cfg := if_pos h

/-- A reset cycle ends in the reset registers, under either reset style, and records its outputs (R147, R230). -/
theorem exists_step_of_rst {s : State} (hrst : (currentInput s).rst = true) :
    ∃ t, step s = .next t ∧ t.cfg = s.cfg ∧ t.triple = (0, zeroState, zeroState) ∧
      t.lastOut = some (cycleOutputs s true (currentInput s).stateIn) :=
  ⟨_, step_eq_next s, rfl, congrArg Regs.triple (nextRegs_of_rst hrst), by rw [hrst]⟩

/-- The reset cycle of an asynchronous engine shows the outputs of any state `t` with the reset registers of the same
datapath (R230). -/
theorem cycleOutputs_asynchronous_of_reset {s t : State} (hasync : s.cfg.resetStyle = .asynchronous) (hcfg : t.cfg = s.cfg)
    (hreset : t.triple = (0, zeroState, zeroState)) (x : ChaChaState) :
    cycleOutputs s true x = ⟨doneFlag t, stateOut t x⟩ := by
  have hsame : SameDatapath (clearRegisters s) t :=
    ⟨congrArg Config.totalStages hcfg.symm, congrArg Config.unitsPerStage hcfg.symm, hreset.symm⟩
  rw [cycleOutputs_asynchronous hasync, hsame.doneFlag_eq, hsame.stateOut_eq]

/-- Settles O16: the two engines share their datapath, and the style is read in a reset cycle alone. -/
theorem resetStyleShowsOnlyInTheResetCycle : Obligations.ResetStyleShowsOnlyInTheResetCycle := by
  constructor
  · intro s style
    have hsame := sameDatapath_resetStyle s style
    refine ⟨_, _, step_eq s, step_eq _, hsame.consumeInput.cycleEnd_triple (currentInput s), fun hrst => ?_⟩
    exact congrArg some (hsame.consumeInput.cycleOutputs_eq_of_not_rst hrst (currentInput s).stateIn)
  · intro s hrst
    obtain ⟨t, hstep, hcfg, hreset, hout⟩ := exists_step_of_rst hrst
    refine ⟨t, hstep, hreset, fun hsync => ?_, fun hasync => ?_⟩
    · rw [hout, cycleOutputs_of_shows (.inr hsync)]
    · rw [hout, cycleOutputs_asynchronous_of_reset hasync hcfg hreset]

/-- From the reset registers a RESET before the inputs makes no difference to the registers of a run (R147). -/
theorem runEnd_triple_reset_cons {s : State} (h : s.triple = (0, zeroState, zeroState)) (enabled : Bool) (x : ChaChaState)
    (ins : List CycleInput) : (runEnd s (⟨true, enabled, x⟩ :: ins)).triple = (runEnd s ins).triple := by
  have hregs : s.regs = Regs.reset s.cfg := Regs.triple_inj.mp h
  rw [runEnd_triple, runEnd_triple, List.foldl_cons, nextRegs_reset, hregs]

/-- From the reset registers `T - 1` STEPs, with `T` at least 2, reach the last stage with the first state captured (R156). -/
theorem runEnd_stepInputs_of_reset {s : State} (h : s.triple = (0, zeroState, zeroState)) (S : ChaChaState)
    {xs : List ChaChaState} (hxs : xs.length + 2 = s.cfg.totalStages) :
    (runEnd s (stepInputs (S :: xs))).ctr = s.cfg.totalStages - 1 ∧ (runEnd s (stepInputs (S :: xs))).prev = S := by
  obtain ⟨hctr, -, hprev⟩ :=
    (State.triple_eq_iff _ _).mp (runEnd_triple_reset_cons h false zeroState (stepInputs (S :: xs)))
  obtain ⟨hcount, hcaptured⟩ :=
    runEnd_reset_stepInputs s false zeroState S xs fun hsingle => by omega
  refine ⟨?_, hprev.symm.trans hcaptured⟩
  rw [← hctr, hcount]
  omega

/-- Settles O32: the STEPs reach the last stage, whose result a synchronous reset cycle still shows. -/
theorem onePermutationEveryTCycles : Obligations.OnePermutationEveryTCycles := by
  intro s S xs e y hsync _ hreset hxs
  have hinv : (runEnd s (stepInputs (S :: xs))).Inv := runEnd_inv (State.inv_of_reset hreset) _
  have hcfg : (runEnd s (stepInputs (S :: xs))).cfg = s.cfg := runEnd_cfg s _
  obtain ⟨hctr, hprev⟩ := runEnd_stepInputs_of_reset hreset S hxs
  refine ⟨_, runsTo_runEnd s (stepInputs (S :: xs) ++ [⟨true, e, y⟩]), ?_, ?_⟩
  · have hlast : (runEnd s (stepInputs (S :: xs))).ctr = (runEnd s (stepInputs (S :: xs))).cfg.totalStages - 1 := by
      rw [hctr, hcfg]
    rw [runEnd_append_lastOut, cycleOutputs_of_last hinv hlast (fun h0 => by omega) (.inr (hcfg ▸ hsync)), hprev, hcfg]
  · rw [runEnd_append, cycleWith_triple, nextRegs_reset, Regs.reset_triple]

/-- Settles O19: the registers at power-on are the reset registers, which meet the invariant. -/
theorem powerOnIsTheResetStateAndMeetsTheInvariant : Obligations.PowerOnIsTheResetStateAndMeetsTheInvariant :=
  ⟨fun _ => ⟨rfl, rfl, State.inv_of_reset rfl⟩, rfl, State.inv_of_reset rfl⟩

end Sys2Proof.Machine
end
